-- ==== Sys2Proof/Word.lean ====
section
/-! DEFINITION. The words of LMX and their widths (00_scope.md R7, R8, R10). Every value is unsigned; bit 0 is the
least significant bit. -/

namespace Sys2Proof

/-- A host command word (30_encoding.md R81): 32 bits. -/
abbrev CommandWord := BitVec 32

/-- A GPIO event word (30_encoding.md R96): 16 bits. -/
abbrev EventWord := BitVec 16

/-- A GPIO line identifier (00_scope.md R8, `PIN_BITS = 8`): 0x00 to 0xFE name lines, 0xFF is NONE. -/
abbrev LineId := BitVec 8

/-- One frame-buffer cell (00_scope.md R7, `CELL_BITS = 16`). -/
abbrev CellValue := BitVec 16

/-- A time or a counter in microseconds (00_scope.md R8, `TIME_BITS = 32`). -/
abbrev Micros := BitVec 32

/-- The DATA half of a response (30_encoding.md R82). -/
abbrev ResponseData := BitVec 32

/-- The NONE sentinel (00_scope.md R8, R13): it names no line. -/
abbrev noneLine : LineId := 0xFF#8

end Sys2Proof
end

