-- ==== Sys2Proof/Syntax.lean ====
section
/-! DEFINITION. The operations of LMX that have an encoding: one constructor for every row of spec/opcode_table.json
(sixteen host commands, 30_encoding.md R93; three GPIO primitives, 40_gpio_shiftreg.md R111 to R113), and the
pseudo-instructions of 30_encoding.md R101. Every operand has the width of its field (R85 to R91, R96). -/

namespace Sys2Proof

inductive Instr where
  /-- CONSTRUCT rows, cols, planes (format G, R86). -/
  | construct (rows : BitVec 6) (cols : BitVec 7) (planes : BitVec 3)
  /-- ROWPIN pin (format P, R87). -/
  | rowpin (pin : LineId)
  /-- COLPIN pin (format P, R87). -/
  | colpin (pin : LineId)
  /-- SRPINS plane, data, clock, latch (format S, R88). -/
  | srpins (plane : BitVec 2) (data clock latch : LineId)
  /-- PERIOD us (format T, R89). -/
  | period (us : BitVec 24)
  /-- BEGIN (format N, R85). -/
  | begin
  /-- CLEAR (format N, R85). -/
  | clear
  /-- WRITEDISPLAY (format N, R85). -/
  | writedisplay
  /-- FBWR row, col, value (format F, R90). -/
  | fbwr (row : BitVec 5) (col : BitVec 6) (value : CellValue)
  /-- FBRD row, col (format F, R90). -/
  | fbrd (row : BitVec 5) (col : BitVec 6)
  /-- RDRUNTIME (format N, R85). -/
  | rdruntime
  /-- RDLATENCY (format N, R85). -/
  | rdlatency
  /-- RDSTATUS (format N, R85). -/
  | rdstatus
  /-- RDPERIOD idx (format I, R91). -/
  | rdperiod (idx : BitVec 2)
  /-- RDCURSOR (format N, R85). -/
  | rdcursor
  /-- RDTABLES (format N, R85). -/
  | rdtables
  /-- GPIO_CFG_OUT line (event E16, R96, R111). -/
  | gpioCfgOut (line : LineId)
  /-- GPIO_DRIVE_LOW line (event E16, R96, R112). -/
  | gpioDriveLow (line : LineId)
  /-- GPIO_DRIVE_HIGH line (event E16, R96, R113). -/
  | gpioDriveHigh (line : LineId)
deriving DecidableEq, Repr

/-- A GPIO primitive as BEGIN and the engine perform it (40_gpio_shiftreg.md section 1). -/
inductive GpioOp where
  | cfgOut (line : LineId)
  | driveLow (line : LineId)
  | driveHigh (line : LineId)
deriving DecidableEq, Repr

/-- The line a primitive acts on. -/
def GpioOp.line : GpioOp → LineId
  | .cfgOut l => l
  | .driveLow l => l
  | .driveHigh l => l

/-- An encoded operation: a word of the command port (R81) or a GPIO event word (R96). -/
inductive Code where
  | command (w : CommandWord)
  | event (e : EventWord)
deriving DecidableEq, Repr

namespace Pseudo

/-- `NOP` (30_encoding.md R101). -/
def nop : List Instr := [.writedisplay]

/-- `SRNONE plane`: mark a plane direct-wired (R101). -/
def srNone (plane : BitVec 2) : List Instr := [.srpins plane noneLine noneLine noneLine]

/-- `ROWPINS p0, ..., pn` (R101). -/
def rowPins (pins : List LineId) : List Instr := pins.map .rowpin

/-- `COLPINS p0, ..., pn` (R101). -/
def colPins (pins : List LineId) : List Instr := pins.map .colpin

/-- `FILL v` for a geometry of `rows × cols`, row-major (R101). -/
def fill (rows cols : Nat) (v : CellValue) : List Instr :=
  (List.range rows).flatMap fun r =>
    (List.range cols).map fun c => .fbwr (BitVec.ofNat 5 r) (BitVec.ofNat 6 c) v

end Pseudo

end Sys2Proof
end

