-- ==== Sys2Proof/WellFormed.lean ====
section
/-! DEFINITION. Which terms of Instr the spec calls an operation. A command's operands are as wide as their fields
(Syntax.lean), and every value that fits its field is encodable (30_encoding.md R86, R102), so no command is
ill-formed. A GPIO primitive names a line 0x00 to 0xFE; 0xFF names none (30_encoding.md R96, R97). -/

namespace Sys2Proof

def Instr.wellFormed : Instr → Bool
  | .construct _ _ _ => true
  | .rowpin _ => true
  | .colpin _ => true
  | .srpins _ _ _ _ => true
  | .period _ => true
  | .begin => true
  | .clear => true
  | .writedisplay => true
  | .fbwr _ _ _ => true
  | .fbrd _ _ => true
  | .rdruntime => true
  | .rdlatency => true
  | .rdstatus => true
  | .rdperiod _ => true
  | .rdcursor => true
  | .rdtables => true
  | .gpioCfgOut l => l != noneLine
  | .gpioDriveLow l => l != noneLine
  | .gpioDriveHigh l => l != noneLine

/-- The sixteen host commands, as against the three GPIO primitives, which no host issues (40_gpio_shiftreg.md). -/
def Instr.isCommand : Instr → Bool
  | .construct _ _ _ => true
  | .rowpin _ => true
  | .colpin _ => true
  | .srpins _ _ _ _ => true
  | .period _ => true
  | .begin => true
  | .clear => true
  | .writedisplay => true
  | .fbwr _ _ _ => true
  | .fbrd _ _ => true
  | .rdruntime => true
  | .rdlatency => true
  | .rdstatus => true
  | .rdperiod _ => true
  | .rdcursor => true
  | .rdtables => true
  | .gpioCfgOut _ => false
  | .gpioDriveLow _ => false
  | .gpioDriveHigh _ => false

end Sys2Proof
end

