-- ==== Sys2Proof/Decode.lean ====
section
/-! DEFINITION. Decoding and encoding (30_encoding.md). A command word is decoded by its opcode and then by its row's
mask and match (R84, R93); a GPIO event word by its KIND, its reserved bits and its line (R96, R97). No operation
splits a word into bytes (20_memory.md R63), so the decoder reads whole words. -/

namespace Sys2Proof

/-- Why a word is rejected. -/
inductive DecodeError where
  /-- Opcode 0x00 or 0x11 to 0x1F (R94). -/
  | unassignedOpcode
  /-- An assigned opcode with a reserved bit set (R84, R94). -/
  | reservedBitSet
  /-- Event KIND 3 to 7 (R97). -/
  | unassignedKind
  /-- An event word with a reserved bit set (R97). -/
  | eventReservedBitSet
  /-- An event word that names no line, PIN = 0xFF (R97). -/
  | eventNamesNoLine
  /-- A width that is neither a command word's nor an event word's (R95, R96). -/
  | badWidth
deriving DecidableEq, Repr

/-- One row of the opcode map (R93): a word selects it when `w & mask = bits`. -/
structure MapRow where
  mnemonic : String
  bits : CommandWord
  mask : CommandWord
deriving DecidableEq, Repr

/-- The opcode map (R93). -/
def opcodeMap : List MapRow :=
  [⟨"CONSTRUCT", 0x08000000#32, 0xF80007FF#32⟩, ⟨"ROWPIN", 0x10000000#32, 0xFFFFFF00#32⟩,
   ⟨"COLPIN", 0x18000000#32, 0xFFFFFF00#32⟩, ⟨"SRPINS", 0x20000000#32, 0xF9000000#32⟩,
   ⟨"PERIOD", 0x28000000#32, 0xFF000000#32⟩, ⟨"BEGIN", 0x30000000#32, 0xFFFFFFFF#32⟩,
   ⟨"CLEAR", 0x38000000#32, 0xFFFFFFFF#32⟩, ⟨"WRITEDISPLAY", 0x40000000#32, 0xFFFFFFFF#32⟩] ++
  [⟨"FBWR", 0x48000000#32, 0xF8000000#32⟩, ⟨"FBRD", 0x50000000#32, 0xF800FFFF#32⟩,
   ⟨"RDRUNTIME", 0x58000000#32, 0xFFFFFFFF#32⟩, ⟨"RDLATENCY", 0x60000000#32, 0xFFFFFFFF#32⟩,
   ⟨"RDSTATUS", 0x68000000#32, 0xFFFFFFFF#32⟩, ⟨"RDPERIOD", 0x70000000#32, 0xFFFFFFFC#32⟩,
   ⟨"RDCURSOR", 0x78000000#32, 0xFFFFFFFF#32⟩, ⟨"RDTABLES", 0x80000000#32, 0xFFFFFFFF#32⟩]

/-- The second half of R84: the row's reserved bits must be 0. -/
def checkReserved (w mask bits : CommandWord) (i : Instr) : Except DecodeError Instr :=
  if w &&& mask = bits then .ok i else .error .reservedBitSet

/-- Decode one command word (R84, R93); total. -/
def decodeCommand (w : CommandWord) : Except DecodeError Instr :=
  match (w.extractLsb' 27 5).toNat with
  | 0x01 => checkReserved w 0xF80007FF#32 0x08000000#32
      (.construct (w.extractLsb' 21 6) (w.extractLsb' 14 7) (w.extractLsb' 11 3))
  | 0x02 => checkReserved w 0xFFFFFF00#32 0x10000000#32 (.rowpin (w.extractLsb' 0 8))
  | 0x03 => checkReserved w 0xFFFFFF00#32 0x18000000#32 (.colpin (w.extractLsb' 0 8))
  | 0x04 => checkReserved w 0xF9000000#32 0x20000000#32
      (.srpins (w.extractLsb' 25 2) (w.extractLsb' 16 8) (w.extractLsb' 8 8) (w.extractLsb' 0 8))
  | 0x05 => checkReserved w 0xFF000000#32 0x28000000#32 (.period (w.extractLsb' 0 24))
  | 0x06 => checkReserved w 0xFFFFFFFF#32 0x30000000#32 .begin
  | 0x07 => checkReserved w 0xFFFFFFFF#32 0x38000000#32 .clear
  | 0x08 => checkReserved w 0xFFFFFFFF#32 0x40000000#32 .writedisplay
  | 0x09 => checkReserved w 0xF8000000#32 0x48000000#32
      (.fbwr (w.extractLsb' 22 5) (w.extractLsb' 16 6) (w.extractLsb' 0 16))
  | 0x0A => checkReserved w 0xF800FFFF#32 0x50000000#32 (.fbrd (w.extractLsb' 22 5) (w.extractLsb' 16 6))
  | 0x0B => checkReserved w 0xFFFFFFFF#32 0x58000000#32 .rdruntime
  | 0x0C => checkReserved w 0xFFFFFFFF#32 0x60000000#32 .rdlatency
  | 0x0D => checkReserved w 0xFFFFFFFF#32 0x68000000#32 .rdstatus
  | 0x0E => checkReserved w 0xFFFFFFFC#32 0x70000000#32 (.rdperiod (w.extractLsb' 0 2))
  | 0x0F => checkReserved w 0xFFFFFFFF#32 0x78000000#32 .rdcursor
  | 0x10 => checkReserved w 0xFFFFFFFF#32 0x80000000#32 .rdtables
  | _ => .error .unassignedOpcode

/-- The checks common to the three kinds of event word (DEDUCED from R97, log 15). -/
def checkEvent (e : EventWord) (i : Instr) : Except DecodeError Instr :=
  if e.extractLsb' 8 5 ≠ 0#5 then .error .eventReservedBitSet
  else if e.extractLsb' 0 8 = noneLine then .error .eventNamesNoLine
  else .ok i

/-- Decode one GPIO event word (R96, R97); total. -/
def decodeEvent (e : EventWord) : Except DecodeError Instr :=
  match (e.extractLsb' 13 3).toNat with
  | 0 => checkEvent e (.gpioCfgOut (e.extractLsb' 0 8))
  | 1 => checkEvent e (.gpioDriveLow (e.extractLsb' 0 8))
  | 2 => checkEvent e (.gpioDriveHigh (e.extractLsb' 0 8))
  | _ => .error .unassignedKind

/-- Decode an encoded operation; total. -/
def decode : Code → Except DecodeError Instr
  | .command w => decodeCommand w
  | .event e => decodeEvent e

/-- The event word of a GPIO primitive (R96): KIND, five reserved bits, PIN. -/
def eventWord : GpioOp → EventWord
  | .cfgOut l => 0#3 ++ 0#5 ++ l
  | .driveLow l => 1#3 ++ 0#5 ++ l
  | .driveHigh l => 2#3 ++ 0#5 ++ l

/-- The word of a command without operands (format N, R85). -/
def encodeN (op : BitVec 5) : CommandWord := op ++ 0#27

/-- The words of an operation, laid out from the formats R85 to R91 and R96. -/
def encode : Instr → Code
  | .construct rows cols planes => .command (0x01#5 ++ rows ++ cols ++ planes ++ 0#11)
  | .rowpin pin => .command (0x02#5 ++ 0#19 ++ pin)
  | .colpin pin => .command (0x03#5 ++ 0#19 ++ pin)
  | .srpins plane data clock latch => .command (0x04#5 ++ plane ++ 0#1 ++ data ++ clock ++ latch)
  | .period us => .command (0x05#5 ++ 0#3 ++ us)
  | .begin => .command (encodeN 0x06#5)
  | .clear => .command (encodeN 0x07#5)
  | .writedisplay => .command (encodeN 0x08#5)
  | .fbwr row col value => .command (0x09#5 ++ row ++ col ++ value)
  | .fbrd row col => .command (0x0A#5 ++ row ++ col ++ 0#16)
  | .rdruntime => .command (encodeN 0x0B#5)
  | .rdlatency => .command (encodeN 0x0C#5)
  | .rdstatus => .command (encodeN 0x0D#5)
  | .rdperiod idx => .command (0x0E#5 ++ 0#25 ++ idx)
  | .rdcursor => .command (encodeN 0x0F#5)
  | .rdtables => .command (encodeN 0x10#5)
  | .gpioCfgOut line => .event (eventWord (.cfgOut line))
  | .gpioDriveLow line => .event (eventWord (.driveLow line))
  | .gpioDriveHigh line => .event (eventWord (.driveHigh line))

/-- The code whose bits are `w` when it is `nbits` wide: every command word is 32 bits (R95), every event word 16
(R96). -/
def codeOfBits (nbits w : Nat) : Except DecodeError Code :=
  if nbits = 32 then .ok (.command (BitVec.ofNat 32 w))
  else if nbits = 16 then .ok (.event (BitVec.ofNat 16 w))
  else .error .badWidth

/-- The operation that a row of spec/opcode_table.json of `nbits` bits encodes as `w`. -/
def decodeTableWord (nbits w : Nat) : Option Instr :=
  match codeOfBits nbits w with
  | .ok c => (decode c).toOption
  | .error _ => none

end Sys2Proof
end

