-- ==== Sys2Proof/Config.lean ====
section
/-! DEFINITION. What an implementation of LMX fixes (00_scope.md R7 to R9, 10_state.md R58) and the free values the
spec draws from oracles "under no law" (00_scope.md R9, R11). A free value is an opaque constant applied to a plain
counter of State, so no proof can see what it is. -/

namespace Sys2Proof

/-- The order in which columns are shifted into a shift register (40_gpio_shiftreg.md R118). -/
inductive SrOrder where
  | asc
  | desc
deriving DecidableEq, Repr, Inhabited

/-- The open parameters of one LMX instance (00_scope.md R9). State carries them, no step writes them. -/
structure Params where
  /-- `FB_WORDS` - 1: the cells of the frame-buffer capacity beyond the first. `FB_WORDS` is a natural number ≥ 1
  (92_eei_decisions.md, open parameters), so every value of this field is one of its values and no other is. -/
  moreFbWords : Nat
  /-- `SR_ORDER`. -/
  srOrder : SrOrder
  /-- `PROMPT_DISPATCH`. -/
  promptDispatch : Bool
deriving DecidableEq, Repr, Inhabited

/-- `FB_WORDS`: frame-buffer capacity in cells, at least 1. -/
def Params.fbWords (p : Params) : Nat := p.moreFbWords + 1

/-- The five agents of LMX (00_scope.md R12). -/
inductive Agent where
  | host
  | clear
  | tick
  | engine
  | reset
deriving DecidableEq, Repr, Inhabited

namespace Config

/-- `MAX_ROWS` (00_scope.md R8). -/
abbrev maxRows : Nat := 32

/-- `MAX_COLS` (00_scope.md R8). -/
abbrev maxCols : Nat := 64

/-- `MAX_PLANES` (00_scope.md R7). -/
abbrev maxPlanes : Nat := 4

/-- `MAX_COLPINS = MAX_COLS × MAX_PLANES` (00_scope.md R8). -/
abbrev maxColPins : Nat := 256

/-- The parameters of the machine after power-on: open, hence without a value here (00_scope.md R9). DESIGN CHOICE
(log 3): an uninterpreted constant. -/
opaque params : Params

/-- `FB_INIT_DRAW` (10_state.md R47): the value of the n-th cell drawn by a CONSTRUCT. Free value, log 4. -/
opaque fbInitDraw : Nat → CellValue

/-- `GPIO_CFG_DRAW` (40_gpio_shiftreg.md R111): the level of the n-th line configured while at Z; true is 1. Free
value, log 5. -/
opaque gpioCfgDraw : Nat → Bool

/-- `RUNTIME_DRAW` (42_refresh_engine.md R153): the measured runtime of the n-th invocation. Free value, log 6. -/
opaque runtimeDraw : Nat → Micros

/-- The agent that the n-th unscheduled step prefers (10_state.md R60: "the choice among enabled agents is free").
Free value, log 2. -/
opaque agentDraw : Nat → Agent

/-- How many unscheduled steps stay free before the next agent of the fairness round has its turn: any number, but a
finite one (10_state.md R60, weak fairness). Free value, log 2. -/
opaque gapDraw : Nat → Nat

end Config

end Sys2Proof
end

