-- ==== Sys2Proof/Machine/State.lean ====
section
/-! DEFINITION. The state of LMX (10_state.md R20 to R51), its host interface, the model's own bookkeeping fields, and
the ways a step can stop. INVENTORY.md lists every field with its rule and reset value. -/

namespace Sys2Proof.Machine

/-- `LC` (10_state.md R21); its 2-bit encoding is `Lifecycle.code` in Flags.lean. -/
inductive Lifecycle where
  | unconstructed
  | constructed
  | running
  | halted
deriving DecidableEq, Repr

/-- The causes of a fatal halt (60_exceptions.md R207); their codes are `HaltCause.code` in Flags.lean. -/
inductive HaltCause where
  | allocFail
  | badGeometry
  | rowTableMismatch
  | colTableMismatch
  | srTripleInvalid
  | periodInvalid
  | pinNone
deriving DecidableEq, Repr

/-- The statuses of a response (60_exceptions.md R202); codes 6 and 7 are never returned, so they have no name. -/
inductive Status where
  | ok
  | errIllegal
  | errState
  | errHalted
  | errFull
  | errArg
deriving DecidableEq, Repr

/-- A response pair (30_encoding.md R82). -/
structure Response where
  status : Status
  data : ResponseData
deriving DecidableEq, Repr

/-- One shift-register pin triple (10_state.md R31). -/
structure SrTriple where
  data : LineId
  clock : LineId
  latch : LineId
deriving DecidableEq, Repr

/-- Four like elements with indices 0 to 3: SRPINS (R31) and PTABLE (R34). -/
structure Quad (α : Type) where
  e0 : α
  e1 : α
  e2 : α
  e3 : α
deriving DecidableEq, Repr

/-- `GPIO_MODE[l]` (10_state.md R49). -/
inductive LineMode where
  | unconfigured
  | output
deriving DecidableEq, Repr

/-- `GPIO_LEVEL[l]` (10_state.md R50). -/
inductive Level where
  | z
  | low
  | high
deriving DecidableEq, Repr

/-- The mode and the level of one GPIO line. -/
structure Line where
  mode : LineMode
  level : Level
deriving DecidableEq, Repr

/-- `FB` (10_state.md R46, 20_memory.md R61): cells by linear index, indices strictly rising. An unlisted index is no
cell: it has no value (DESIGN CHOICE, log 9). -/
abbrev Memory := List (Nat × CellValue)

/-- The GPIO line space (10_state.md R56): lines by identifier, identifiers strictly rising. An unlisted line is
UNCONFIGURED at Z, its reset value (DESIGN CHOICE of form, log 12). -/
abbrev Lines := List (Nat × Line)

/-- How many values have been drawn from each oracle of Config (the model's own; log 2, 4, 5, 6). -/
structure Draws where
  fb : Nat
  gpio : Nat
  runtime : Nat
  agent : Nat
deriving DecidableEq, Repr

/-- Where the round of weak fairness stands (the model's own, log 2; 10_state.md R60): after `free` more unscheduled
steps the agent `owed` has its turn. -/
structure Round where
  free : Nat
  owed : Agent
deriving DecidableEq, Repr

structure State where
  /-- `LC`, R21. -/
  lc : Lifecycle
  /-- `DIAG`, R22. -/
  diag : BitVec 8
  /-- `ROWS`, R26. -/
  rows : BitVec 6
  /-- `COLS`, R27. -/
  cols : BitVec 7
  /-- `PLANES`, R28. -/
  planes : BitVec 3
  /-- `ROWPINS`, R29. -/
  rowPins : List LineId
  /-- `COLPINS`, R30. -/
  colPins : List LineId
  /-- `SRPINS`, R31. -/
  srPins : Quad SrTriple
  /-- `BASE`, R33. -/
  base : BitVec 24
  /-- `PTABLE`, R34. -/
  ptable : Quad (BitVec 27)
  /-- `CUR_ROW`, R35. -/
  curRow : BitVec 5
  /-- `CUR_PLANE`, R36. -/
  curPlane : BitVec 2
  /-- `SLOT`, R37. -/
  slot : BitVec 2
  /-- `NOW`, R38. -/
  now : Micros
  /-- `COUNT`, R39. -/
  count : Micros
  /-- `PERIOD`, R40. -/
  period : Micros
  /-- `TEN`, R41. -/
  ten : Bool
  /-- `IRQ_PENDING`, R42. -/
  irqPending : Bool
  /-- `LAST_START`, R43. -/
  lastStart : Micros
  /-- `RUNTIME`, R44. -/
  runtime : Micros
  /-- `LATENCY`, R45. -/
  latency : Micros
  /-- `FB`, R46; empty while it does not exist. -/
  fb : Memory
  /-- `CLEAR_IDX`, R48; none is NONE. -/
  clearIdx : Option Nat
  /-- `GPIO_MODE` and `GPIO_LEVEL`, R49, R50. -/
  lines : Lines
  /-- `TRACE`, R51, oldest event first. -/
  trace : List EventWord
  /-- The last response returned on the command port (30_encoding.md R82, R83); none before the first one and while
  a CLEAR is unanswered. DEDUCED, log 13. -/
  response : Option Response
  /-- The command words the host will offer, in issue order (R58, R83). DESIGN CHOICE, log 17: a finite list, which no
  step extends; R58 gives the sequence no length. -/
  hostQueue : List CommandWord
  /-- The agents whose turns come, next first (log 2; R60 leaves the schedule free). -/
  schedule : List Agent
  /-- The round of weak fairness (log 2). -/
  round : Round
  /-- The model's own draw counters. -/
  draws : Draws
  /-- The parameters of this instance (00_scope.md R9). -/
  params : Params
deriving DecidableEq, Repr

/-- Why the machine stops with a fault. None of them can happen in a run of LMX: 42_refresh_engine.md R160 and
40_gpio_shiftreg.md R115 say so, and the statement EveryStepFromInvAnswersNext says so of the model. All are safe: the
model stops where the spec states no effect (DESIGN CHOICE, logs 9, 10, 11). -/
inductive Fault where
  /-- Raised by GPIO_DRIVE_LOW and GPIO_DRIVE_HIGH on an UNCONFIGURED line (40_gpio_shiftreg.md R115). Safe. -/
  | driveUnconfigured (l : LineId)
  /-- Raised by a GPIO primitive on 0xFF, which names no line (10_state.md R49). Safe. -/
  | noSuchLine
  /-- Raised by an access to a cell that does not exist (20_memory.md R61). Safe. -/
  | noSuchCell (i : Nat)
  /-- Raised by the engine on an index outside a pin table (unreachable, 42_refresh_engine.md R160). Safe. -/
  | noSuchPin
  /-- Raised by the engine on a plane index above 3 (unreachable, 42_refresh_engine.md R160). Safe. -/
  | noSuchPlane
deriving DecidableEq, Repr

/-- Why a step has no meaning. -/
inductive Refusal where
  /-- Raised by an arm of exec without a meaning; no arm raises it now. Safe. -/
  | notModelled (mnemonic : String)
  /-- Raised by HOST or CLEAR run while it is not enabled (10_state.md R60); the step never does that. Safe. -/
  | agentNotEnabled
deriving DecidableEq, Repr

/-- The triple of a direct-wired plane (10_state.md R31). -/
def SrTriple.none : SrTriple := ⟨noneLine, noneLine, noneLine⟩

/-- A line after reset (10_state.md R49, R50). -/
def Line.undriven : Line := ⟨.unconfigured, .z⟩

/-- The state after reset (70_reset_and_hazards.md R236). The last six fields are the model's own: nothing answered,
offered, scheduled or drawn yet (log 7), the first gap of the fairness round (log 2), and open parameters (log 3). -/
def State.reset : State where
  lc := .unconstructed
  diag := 0
  rows := 0
  cols := 0
  planes := 0
  rowPins := []
  colPins := []
  srPins := ⟨.none, .none, .none, .none⟩
  base := 0
  ptable := ⟨0, 0, 0, 0⟩
  curRow := 0
  curPlane := 0
  slot := 0
  now := 0
  count := 0
  period := 0
  ten := false
  irqPending := false
  lastStart := 0
  runtime := 0
  latency := 0
  fb := []
  clearIdx := .none
  lines := []
  trace := []
  response := .none
  hostQueue := []
  schedule := []
  round := ⟨Config.gapDraw 0, .tick⟩
  draws := ⟨0, 0, 0, 0⟩
  params := Config.params

end Sys2Proof.Machine
end

