-- ==== Sys2Proof/Machine/Ops.lean ====
section
/-! DEFINITION. The named operations every meaning is written with: sparse maps, frame-buffer cells, GPIO primitives,
the response, the fatal halt and the interrupt dispatch (LMX's two exceptions: 60_exceptions.md R206, R220), and the
timer's two operations. -/

namespace Sys2Proof.Machine

/-! ### Sparse maps: lists of (key, value) with strictly rising keys -/

/-- Keys strictly rising: the one canonical form of a sparse map. -/
abbrev risingKeys {α : Type} (m : List (Nat × α)) : Prop := (m.map Prod.fst).Pairwise (· < ·)

/-- The value listed for a key. -/
def lookupKey {α : Type} (k : Nat) : List (Nat × α) → Option α
  | [] => none
  | (k', v) :: rest => if k = k' then some v else lookupKey k rest

/-- List a value for a key, in its place, replacing the one listed before. -/
def insertKey {α : Type} (k : Nat) (v : α) : List (Nat × α) → List (Nat × α)
  | [] => [(k, v)]
  | (k', v') :: rest =>
    if k < k' then (k, v) :: (k', v') :: rest
    else if k = k' then (k, v) :: rest
    else (k', v') :: insertKey k v rest

/-- Apply a partial function to each element, left to right, stopping at the first fault. -/
def collect {α β : Type} (f : α → Except Fault β) : List α → Except Fault (List β)
  | [] => .ok []
  | a :: rest =>
    match f a with
    | .error e => .error e
    | .ok b =>
      match collect f rest with
      | .error e => .error e
      | .ok bs => .ok (b :: bs)

/-- The outcome of a computation that may fault. -/
def outcomeOf : Except Fault State → Host.Outcome State Fault Refusal
  | .ok s => .next s
  | .error f => .fault f

/-! ### Quads -/

/-- Element `c` of a quad, for c in 0..3. -/
def Quad.get? {α : Type} (q : Quad α) : Nat → Option α
  | 0 => some q.e0
  | 1 => some q.e1
  | 2 => some q.e2
  | 3 => some q.e3
  | _ => none

/-- Element `c` of a quad at a 2-bit index. -/
def Quad.at {α : Type} (q : Quad α) (c : BitVec 2) : α :=
  match c.toNat with
  | 0 => q.e0
  | 1 => q.e1
  | 2 => q.e2
  | _ => q.e3

/-- Replace the element at a 2-bit index. -/
def Quad.put {α : Type} (q : Quad α) (c : BitVec 2) (a : α) : Quad α :=
  match c.toNat with
  | 0 => { q with e0 := a }
  | 1 => { q with e1 := a }
  | 2 => { q with e2 := a }
  | _ => { q with e3 := a }

/-! ### The frame buffer (20_memory.md R61 to R72) -/

/-- The canonical form of the frame buffer. -/
abbrev Memory.wf (m : Memory) : Prop := risingKeys m

/-- The value of cell `i`, if there is a cell `i`. -/
def Memory.read (m : Memory) (i : Nat) : Option CellValue := lookupKey i m

/-- Cell `i` set to `v`, if there is a cell `i`. -/
def Memory.write (m : Memory) (i : Nat) (v : CellValue) : Option Memory :=
  if (lookupKey i m).isSome then some (insertKey i v m) else none

/-- `n` fresh cells 0 .. n-1, cell i holding the (first + i)-th draw of FB_INIT_DRAW (10_state.md R47). -/
def Memory.drawn (n first : Nat) : Memory :=
  (List.range n).map fun i => (i, Config.fbInitDraw (first + i))

/-- `MemRead(i, 2)` (00_scope.md R11, 20_memory.md R61, R62). -/
def memRead (s : State) (i : Nat) : Except Fault CellValue :=
  match s.fb.read i with
  | some v => .ok v
  | none => .error (.noSuchCell i)

/-- `MemWrite(i, 2, v)`: one atomic write of one whole cell (20_memory.md R61, R62, R67). -/
def memWrite (i : Nat) (v : CellValue) (s : State) : Except Fault State :=
  match s.fb.write i v with
  | some m => .ok { s with fb := m }
  | none => .error (.noSuchCell i)

/-! ### Responses, the fatal halt, the interrupt dispatch -/

/-- `respond(status, data)` (00_scope.md R11). -/
def respond (st : Status) (d : ResponseData) (s : State) : State :=
  { s with response := some ⟨st, d⟩ }

/-- The 3-bit code of a status (60_exceptions.md R202). -/
def Status.code : Status → BitVec 3
  | .ok => 0
  | .errIllegal => 1
  | .errState => 2
  | .errHalted => 3
  | .errFull => 4
  | .errArg => 5

/-- The DIAG code of a halt (60_exceptions.md R207). -/
def HaltCause.code : HaltCause → BitVec 8
  | .allocFail => 1
  | .badGeometry => 2
  | .rowTableMismatch => 3
  | .colTableMismatch => 4
  | .srTripleInvalid => 5
  | .periodInvalid => 6
  | .pinNone => 7

/-- `halt(d)` (60_exceptions.md R206). DATA is the DIAG code, as R202 and R206 say (DEDUCED against 30_encoding.md R82,
log 14). -/
def halt (d : HaltCause) (s : State) : State :=
  respond .errHalted (d.code.setWidth 32)
    { s with lc := .halted, diag := d.code, ten := false, irqPending := false }

/-- The interrupt dispatch (60_exceptions.md R220): the request is cleared, nothing is saved; the return restores
nothing (R224), so it has no operation of its own. -/
def takeInterrupt (s : State) : State := { s with irqPending := false }

/-! ### The timer (60_exceptions.md R217, R219) -/

/-- TIMER_SET_PERIOD(v) (R217). -/
def timerSetPeriod (v : Micros) (s : State) : State := { s with period := v, count := 0 }

/-- TIMER_REPROGRAM(v) (R219): COUNT is kept. -/
def timerReprogram (v : Micros) (s : State) : State := { s with period := v }

/-! ### GPIO primitives (40_gpio_shiftreg.md R111 to R114) -/

/-- Mode and level of a line (10_state.md R49, R50). -/
def lineAt (s : State) (l : LineId) : Line := (lookupKey l.toNat s.lines).getD .undriven

/-- A line in OUTPUT mode at a level. -/
def setOutput (l : LineId) (v : Level) (s : State) : State :=
  { s with lines := insertKey l.toNat ⟨.output, v⟩ s.lines }

/-- `TRACE <- TRACE ++ [e]` (10_state.md R51). -/
def appendTrace (e : EventWord) (s : State) : State := { s with trace := s.trace ++ [e] }

/-- The level a drawn or driven bit stands for. -/
def Level.ofBit : Bool → Level
  | false => .low
  | true => .high

/-- GPIO_CFG_OUT l (R111). A line at Z gets a drawn level; any other keeps its level. -/
def gpioCfgOut (l : LineId) (s : State) : Except Fault State :=
  if l = noneLine then .error .noSuchLine
  else
    match (lineAt s l).level with
    | .z =>
      .ok (appendTrace (eventWord (.cfgOut l))
        (setOutput l (.ofBit (Config.gpioCfgDraw s.draws.gpio))
          { s with draws := { s.draws with gpio := s.draws.gpio + 1 } }))
    | v => .ok (appendTrace (eventWord (.cfgOut l)) (setOutput l v s))

/-- Drive a configured line and record the event: what R112 and R113 have in common. -/
def gpioDrive (l : LineId) (v : Level) (e : EventWord) (s : State) : Except Fault State :=
  if l = noneLine then .error .noSuchLine
  else
    match (lineAt s l).mode with
    | .output => .ok (appendTrace e (setOutput l v s))
    | .unconfigured => .error (.driveUnconfigured l)

/-- GPIO_DRIVE_LOW l (R112). -/
def gpioDriveLow (l : LineId) (s : State) : Except Fault State :=
  gpioDrive l .low (eventWord (.driveLow l)) s

/-- GPIO_DRIVE_HIGH l (R113). -/
def gpioDriveHigh (l : LineId) (s : State) : Except Fault State :=
  gpioDrive l .high (eventWord (.driveHigh l)) s

/-- `emit E` (00_scope.md R11): perform one primitive. -/
def emit : GpioOp → State → Except Fault State
  | .cfgOut l, s => gpioCfgOut l s
  | .driveLow l, s => gpioDriveLow l s
  | .driveHigh l, s => gpioDriveHigh l s

/-- Perform primitives in order. -/
def emitAll : List GpioOp → State → Except Fault State
  | [], s => .ok s
  | op :: ops, s =>
    match emit op s with
    | .ok t => emitAll ops t
    | .error f => .error f

/-- DRIVE(l, bit) (R114). -/
def drive (l : LineId) : Bool → GpioOp
  | false => .driveLow l
  | true => .driveHigh l

end Sys2Proof.Machine
end

