-- ==== Sys2Proof/Machine/Operands.lean ====
section
/-! DEFINITION. The operands of the commands and of the engine: counts, cell indices, bit-plane selection, plane
wirings, column-pin indices and the shift order. LMX has no register operand and no addressing mode (10_state.md R23,
30_encoding.md R103). -/

namespace Sys2Proof.Machine

/-- ROWS as a count. -/
abbrev State.rowCount (s : State) : Nat := s.rows.toNat

/-- COLS as a count. -/
abbrev State.colCount (s : State) : Nat := s.cols.toNat

/-- PLANES as a count. -/
abbrev State.planeCount (s : State) : Nat := s.planes.toNat

/-- ROWS × COLS, the number of cells (20_memory.md R61). -/
abbrev State.cellCount (s : State) : Nat := s.rowCount * s.colCount

/-- `(row, col)` is in range (20_memory.md R61). -/
def inRange (s : State) (r c : Nat) : Bool := decide (r < s.rowCount) && decide (c < s.colCount)

/-- The linear index of `(row, col)`, row-major (20_memory.md R61). -/
def cellIndex (s : State) (r c : Nat) : Nat := r * s.colCount + c

/-- `FB[r][c]` (00_scope.md R11). -/
def readCell (s : State) (r c : Nat) : Except Fault CellValue := memRead s (cellIndex s r c)

/-- PLANEBIT(v, c, b) (41_framebuffer.md R126). -/
def planeBit (v : CellValue) (c b : Nat) : Bool := v.getLsbD (4 * c + b)

/-- LEVEL(v, c) (41_framebuffer.md R127). -/
def intensity (v : CellValue) (c : Nat) : BitVec 4 := v.extractLsb' (4 * c) 4

/-- All three pins of a triple name lines (10_state.md R32). -/
def SrTriple.wired (t : SrTriple) : Bool := t.data != noneLine && t.clock != noneLine && t.latch != noneLine

/-- All three pins of a triple are NONE (10_state.md R32). -/
def SrTriple.direct (t : SrTriple) : Bool := t.data == noneLine && t.clock == noneLine && t.latch == noneLine

/-- SRWIRED(c) (10_state.md R32). -/
def srWired (s : State) (c : Nat) : Bool :=
  match s.srPins.get? c with
  | some t => t.wired
  | none => false

/-- DIRECT(c) (10_state.md R32). -/
def direct (s : State) (c : Nat) : Bool :=
  match s.srPins.get? c with
  | some t => t.direct
  | none => false

/-- ANY_DIRECT (10_state.md R32). -/
def anyDirect (s : State) : Bool := (List.range s.planeCount).any (direct s)

/-- The column table has one entry per plane and column (42_refresh_engine.md R147). -/
def columnsPerPlane (s : State) : Bool :=
  decide (s.colPins.length = s.colCount * s.planeCount) && decide (1 < s.planeCount)

/-- colidx(c, j) (42_refresh_engine.md R147). -/
def colIdx (s : State) (c j : Nat) : Nat := if columnsPerPlane s then c * s.colCount + j else j

/-- The pin at an index of a pin table. -/
def pinAt (pins : List LineId) (i : Nat) : Except Fault LineId :=
  match pins[i]? with
  | some l => .ok l
  | none => .error .noSuchPin

/-- SR_ORDER_SEQ(n) (40_gpio_shiftreg.md R118). -/
def srOrderSeq (o : SrOrder) (n : Nat) : List Nat :=
  match o with
  | .asc => List.range n
  | .desc => (List.range n).reverse

/-- The events of SR_LOAD(c, bits) on the triple of plane c (40_gpio_shiftreg.md R117). -/
def srLoadOps (o : SrOrder) (t : SrTriple) (bits : List Bool) : List GpioOp :=
  [.driveLow t.latch] ++
    ((srOrderSeq o bits.length).flatMap fun j =>
      [drive t.data (bits.getD j false), .driveHigh t.clock, .driveLow t.clock]) ++
    [.driveHigh t.latch]

/-- The events of SR_INIT(c) (40_gpio_shiftreg.md R119). -/
def srInitOps (o : SrOrder) (t : SrTriple) (cols : Nat) : List GpioOp :=
  srLoadOps o t (List.replicate cols false)

/-- The row that was active on the previous call (42_refresh_engine.md R144). -/
def oldRow (s : State) : Nat := if s.curRow.toNat = 0 then s.rowCount - 1 else s.curRow.toNat - 1

/-- A period-table entry as a time. -/
def periodEntry (s : State) (i : BitVec 2) : Micros := (s.ptable.at i).setWidth 32

end Sys2Proof.Machine
end

