-- ==== Sys2Proof/Machine/Flags.lean ====
section
/-! DEFINITION. The single-bit and coded conditions of LMX: it has no condition codes (10_state.md R25), but a busy
condition (R52), agent enabling (R60), the lifecycle gate of the commands (60_exceptions.md R203, R204) and three
packed status words (44_diagnostics.md R193, R195, R196). -/

namespace Sys2Proof.Machine

/-- The encoding of LC (10_state.md R21). -/
def Lifecycle.code : Lifecycle → BitVec 2
  | .unconstructed => 0
  | .constructed => 1
  | .running => 2
  | .halted => 3

/-- The host port is busy while a CLEAR is in progress (10_state.md R52). -/
def busy (s : State) : Bool := s.clearIdx.isSome

/-- The enabling condition of each agent (10_state.md R60). -/
def agentEnabled : Agent → State → Bool
  | .host, s => !s.hostQueue.isEmpty && !busy s
  | .clear, s => s.clearIdx.isSome
  | .tick, s => !(s.params.promptDispatch && s.irqPending && decide (s.lc = .running))
  | .engine, s => s.irqPending && decide (s.lc = .running) && s.ten
  | .reset, _ => true

/-- The rows of the legality table (60_exceptions.md R203). -/
inductive CommandClass where
  | construct
  | bringUp
  | frameBuffer
  | display
  | read
deriving DecidableEq, Repr

/-- The legality table (60_exceptions.md R203). -/
def legalIn : CommandClass → Lifecycle → Bool
  | .construct, lc => decide (lc = .unconstructed)
  | .bringUp, lc => decide (lc = .constructed)
  | .frameBuffer, lc => decide (lc = .constructed) || decide (lc = .running)
  | .display, lc => decide (lc ≠ .halted)
  | .read, _ => true

/-- Steps (2) and (3) of the check order (60_exceptions.md R204): a command not legal in LC is refused and changes no
state (R205); otherwise `body` is its outcome. -/
def guarded (k : CommandClass) (s : State) (body : Host.Outcome State Fault Refusal) :
    Host.Outcome State Fault Refusal :=
  if legalIn k s.lc then body
  else if s.lc = .halted then .next (respond .errHalted 0 s)
  else .next (respond .errState 0 s)

/-- The DATA of RDSTATUS (44_diagnostics.md R193). -/
def statusData (s : State) : ResponseData :=
  s.planes ++ s.cols ++ s.rows ++ s.diag ++ 0#5 ++ BitVec.ofBool s.irqPending ++ s.lc.code

/-- The DATA of RDCURSOR (44_diagnostics.md R195). -/
def cursorData (s : State) : ResponseData :=
  (s.slot ++ 0#2 ++ s.curPlane ++ 0#3 ++ s.curRow).setWidth 32

/-- The SR-wired mask of RDTABLES, bit c = SRWIRED(c) (44_diagnostics.md R196). -/
def srWiredMask (s : State) : BitVec 4 :=
  BitVec.ofBool (srWired s 3) ++ BitVec.ofBool (srWired s 2) ++ BitVec.ofBool (srWired s 1) ++
    BitVec.ofBool (srWired s 0)

/-- The DATA of RDTABLES (44_diagnostics.md R196). -/
def tablesData (s : State) : ResponseData :=
  (srWiredMask s ++ 0#7 ++ BitVec.ofNat 9 s.colPins.length ++ 0#2 ++ BitVec.ofNat 6 s.rowPins.length).setWidth 32

end Sys2Proof.Machine
end

