-- ==== Sys2Proof/Machine/BringUp.lean ====
section
/-! DEFINITION. Construction and bring-up (43_controller_config.md). -/

namespace Sys2Proof.Machine

/-- The geometry check of CONSTRUCT (R168). -/
def geometryOk (r c p : Nat) : Bool :=
  decide (1 ≤ r) && decide (r ≤ Config.maxRows) && decide (1 ≤ c) && decide (c ≤ Config.maxCols) &&
    decide (1 ≤ p) && decide (p ≤ Config.maxPlanes)

/-- The allocation of CONSTRUCT: every cell is drawn (R168, 10_state.md R47). -/
def allocate (rows : BitVec 6) (cols : BitVec 7) (planes : BitVec 3) (s : State) : State :=
  { s with
    rows := rows, cols := cols, planes := planes,
    fb := Memory.drawn (rows.toNat * cols.toNat) s.draws.fb,
    draws := { s.draws with fb := s.draws.fb + rows.toNat * cols.toNat },
    lc := .constructed }

/-- CONSTRUCT rows, cols, planes (R168). -/
def execConstruct (rows : BitVec 6) (cols : BitVec 7) (planes : BitVec 3) (s : State) :
    Host.Outcome State Fault Refusal :=
  guarded .construct s <|
    if geometryOk rows.toNat cols.toNat planes.toNat then
      if rows.toNat * cols.toNat > s.params.fbWords then .next (halt .allocFail s)
      else .next (respond .ok 0 (allocate rows cols planes s))
    else .next (halt .badGeometry s)

/-- ROWPIN pin (R172). -/
def execRowpin (pin : LineId) (s : State) : Host.Outcome State Fault Refusal :=
  guarded .bringUp s <|
    if s.rowPins.length = Config.maxRows then .next (respond .errFull 0 s)
    else .next (respond .ok 0 { s with rowPins := s.rowPins ++ [pin] })

/-- COLPIN pin (R174). -/
def execColpin (pin : LineId) (s : State) : Host.Outcome State Fault Refusal :=
  guarded .bringUp s <|
    if s.colPins.length = Config.maxColPins then .next (respond .errFull 0 s)
    else .next (respond .ok 0 { s with colPins := s.colPins ++ [pin] })

/-- SRPINS plane, data, clock, latch (R176). -/
def execSrpins (plane : BitVec 2) (data clock latch : LineId) (s : State) :
    Host.Outcome State Fault Refusal :=
  guarded .bringUp s <|
    if s.planeCount ≤ plane.toNat then .next (respond .errArg 0 s)
    else .next (respond .ok 0 { s with srPins := s.srPins.put plane ⟨data, clock, latch⟩ })

/-- PERIOD us (R178). -/
def execPeriod (us : BitVec 24) (s : State) : Host.Outcome State Fault Refusal :=
  guarded .bringUp s <| .next (respond .ok 0 { s with base := us })

/-- The column-table check (R183). -/
def colLenOk (s : State) : Bool :=
  decide (s.colPins.length = s.colCount) || decide (s.colPins.length = s.colCount * s.planeCount) ||
    (!anyDirect s && decide (s.colPins.length = 0))

/-- Every plane below PLANES is DIRECT or SRWIRED (R184). -/
def triplesOk (s : State) : Bool := (List.range s.planeCount).all fun c => direct s c || srWired s c

/-- BEGIN's validation: the first failing check, in the order of R181. -/
def beginFailure (s : State) : Option HaltCause :=
  if s.rowPins.length ≠ s.rowCount then some .rowTableMismatch
  else if !colLenOk s then some .colTableMismatch
  else if s.rowPins.contains noneLine || s.colPins.contains noneLine then some .pinNone
  else if !triplesOk s then some .srTripleInvalid
  else if s.base = 0 then some .periodInvalid
  else none

/-- Configure a line and drive it. -/
def configure (l : LineId) (bit : Bool) : List GpioOp := [.cfgOut l, drive l bit]

/-- The initialisation of one plane: nothing unless it is SR-wired (R186). -/
def planeInitOps (s : State) (c : Nat) : List GpioOp :=
  match s.srPins.get? c with
  | some t =>
    if t.wired then
      configure t.data false ++ configure t.clock false ++ configure t.latch true ++
        srInitOps s.params.srOrder t s.colCount
    else []
  | none => []

/-- The GPIO initialisation of BEGIN, in order (R186). -/
def beginOps (s : State) : List GpioOp :=
  (s.rowPins.flatMap fun l => configure l true) ++ (s.colPins.flatMap fun l => configure l false) ++
    (List.range s.planeCount).flatMap (planeInitOps s)

/-- The period table (R187). -/
def periodTable (base : BitVec 24) : Quad (BitVec 27) :=
  ⟨base.setWidth 27 <<< 0, base.setWidth 27 <<< 1, base.setWidth 27 <<< 2, base.setWidth 27 <<< 3⟩

/-- Timer start and cursor initialisation (R188). -/
def launch (s : State) : State :=
  let s1 := { s with curRow := 0, curPlane := 0, slot := 0 }
  let s2 := timerSetPeriod (periodEntry s1 0) s1
  { s2 with irqPending := false, lastStart := s2.now, ten := true, lc := .running }

/-- BEGIN (R189). -/
def execBegin (s : State) : Host.Outcome State Fault Refusal :=
  guarded .bringUp s <|
    match beginFailure s with
    | some d => .next (halt d s)
    | none =>
      match emitAll (beginOps s) s with
      | .error f => .fault f
      | .ok t => .next (respond .ok 0 (launch { t with ptable := periodTable t.base }))

end Sys2Proof.Machine
end

