-- ==== Sys2Proof/Machine/Diagnostics.lean ====
section
/-! DEFINITION. The six diagnostic reads (44_diagnostics.md), legal in every lifecycle state. -/

namespace Sys2Proof.Machine

/-- A read: the response is OK with the data, and nothing else is written (R197). -/
def answerRead (d : ResponseData) (s : State) : Host.Outcome State Fault Refusal :=
  guarded .read s <| .next (respond .ok d s)

/-- RDRUNTIME (R191). -/
def execRdruntime (s : State) : Host.Outcome State Fault Refusal := answerRead s.runtime s

/-- RDLATENCY (R192). -/
def execRdlatency (s : State) : Host.Outcome State Fault Refusal := answerRead s.latency s

/-- RDSTATUS (R193). -/
def execRdstatus (s : State) : Host.Outcome State Fault Refusal := answerRead (statusData s) s

/-- RDPERIOD idx (R194). -/
def execRdperiod (idx : BitVec 2) (s : State) : Host.Outcome State Fault Refusal :=
  answerRead (periodEntry s idx) s

/-- RDCURSOR (R195). -/
def execRdcursor (s : State) : Host.Outcome State Fault Refusal := answerRead (cursorData s) s

/-- RDTABLES (R196). -/
def execRdtables (s : State) : Host.Outcome State Fault Refusal := answerRead (tablesData s) s

end Sys2Proof.Machine
end

