-- ==== Sys2Proof/Machine/FrameBuffer.lean ====
section
/-! DEFINITION. The host commands that touch the frame buffer, and the CLEAR agent (41_framebuffer.md). -/

namespace Sys2Proof.Machine

/-- FBWR row, col, value (R128): an out-of-range write is discarded with OK (R136). -/
def execFbwr (row : BitVec 5) (col : BitVec 6) (value : CellValue) (s : State) :
    Host.Outcome State Fault Refusal :=
  guarded .frameBuffer s <|
    if inRange s row.toNat col.toNat then
      match memWrite (cellIndex s row.toNat col.toNat) value s with
      | .ok t => .next (respond .ok 0 t)
      | .error f => .fault f
    else .next (respond .ok 0 s)

/-- FBRD row, col (R129): an out-of-range read gives 0 with OK (R136). -/
def execFbrd (row : BitVec 5) (col : BitVec 6) (s : State) : Host.Outcome State Fault Refusal :=
  guarded .frameBuffer s <|
    if inRange s row.toNat col.toNat then
      match readCell s row.toNat col.toNat with
      | .ok v => .next (respond .ok (v.setWidth 32) s)
      | .error f => .fault f
    else .next (respond .ok 0 s)

/-- CLEAR (R131): the HOST step only starts it; it is unanswered until its last CLEAR step. -/
def execClear (s : State) : Host.Outcome State Fault Refusal :=
  guarded .frameBuffer s <| .next { s with clearIdx := some 0, response := none }

/-- One CLEAR step at linear index `i` (R132). -/
def clearCell (i : Nat) (s : State) : Host.Outcome State Fault Refusal :=
  match memWrite i 0 s with
  | .error f => .fault f
  | .ok t =>
    if i + 1 = s.cellCount then .next (respond .ok 0 { t with clearIdx := none })
    else .next { t with clearIdx := some (i + 1) }

/-- The CLEAR agent (R132). -/
def clearStep (s : State) : Host.Outcome State Fault Refusal :=
  match s.clearIdx with
  | some i => clearCell i s
  | none => .refused .agentNotEnabled

/-- WRITEDISPLAY (R134): a no-op in every state but HALTED. -/
def execWritedisplay (s : State) : Host.Outcome State Fault Refusal :=
  guarded .display s <| .next (respond .ok 0 s)

end Sys2Proof.Machine
end

