-- ==== Sys2Proof/Machine/Gpio.lean ====
section
/-! DEFINITION. The GPIO primitives as operations of their own (40_gpio_shiftreg.md section 1). LMX performs them only
inside BEGIN and the engine and takes no event word as input (30_encoding.md R97, log 1); `emit` is the same operations
inside a step (statement StepRunsDecodedOperation). They have no lifecycle check and no response (R123). -/

namespace Sys2Proof.Machine

/-- GPIO_CFG_OUT l (R111). -/
def execGpioCfgOut (l : LineId) (s : State) : Host.Outcome State Fault Refusal :=
  outcomeOf (gpioCfgOut l s)

/-- GPIO_DRIVE_LOW l (R112). -/
def execGpioDriveLow (l : LineId) (s : State) : Host.Outcome State Fault Refusal :=
  outcomeOf (gpioDriveLow l s)

/-- GPIO_DRIVE_HIGH l (R113). -/
def execGpioDriveHigh (l : LineId) (s : State) : Host.Outcome State Fault Refusal :=
  outcomeOf (gpioDriveHigh l s)

end Sys2Proof.Machine
end

