-- ==== Sys2Proof/Machine/Dispatch.lean ====
section
/-! DEFINITION. One arm per operation of spec/opcode_table.json. -/

namespace Sys2Proof.Machine

def exec (i : Instr) (s : State) : Host.Outcome State Fault Refusal :=
  match i with
  | .construct rows cols planes => Sys2Proof.Machine.execConstruct rows cols planes s
  | .rowpin pin => Sys2Proof.Machine.execRowpin pin s
  | .colpin pin => Sys2Proof.Machine.execColpin pin s
  | .srpins plane data clock latch => Sys2Proof.Machine.execSrpins plane data clock latch s
  | .period us => Sys2Proof.Machine.execPeriod us s
  | .begin => Sys2Proof.Machine.execBegin s
  | .clear => Sys2Proof.Machine.execClear s
  | .writedisplay => Sys2Proof.Machine.execWritedisplay s
  | .fbwr row col value => Sys2Proof.Machine.execFbwr row col value s
  | .fbrd row col => Sys2Proof.Machine.execFbrd row col s
  | .rdruntime => Sys2Proof.Machine.execRdruntime s
  | .rdlatency => Sys2Proof.Machine.execRdlatency s
  | .rdstatus => Sys2Proof.Machine.execRdstatus s
  | .rdperiod idx => Sys2Proof.Machine.execRdperiod idx s
  | .rdcursor => Sys2Proof.Machine.execRdcursor s
  | .rdtables => Sys2Proof.Machine.execRdtables s
  | .gpioCfgOut line => Sys2Proof.Machine.execGpioCfgOut line s
  | .gpioDriveLow line => Sys2Proof.Machine.execGpioDriveLow line s
  | .gpioDriveHigh line => Sys2Proof.Machine.execGpioDriveHigh line s

end Sys2Proof.Machine
end

