-- ==== Sys2Proof/Machine/Engine.lean ====
section
/-! DEFINITION. The refresh engine: one invocation is one ENGINE step (42_refresh_engine.md). -/

namespace Sys2Proof.Machine

/-- Step 1, latency (R143). -/
def recordLatency (s : State) : State := { s with latency := s.now - s.lastStart, lastStart := s.now }

/-- Step 3, period reprogramming at the start of a row sweep (R145). -/
def reprogramPeriod (s : State) : State :=
  if s.curRow.toNat = 0 then { timerReprogram (periodEntry s s.curPlane) s with slot := s.curPlane } else s

/-- The bits of plane c for the columns of the current row at the current bit-plane (R148, R149). -/
def rowBits (s : State) (c : Nat) : Except Fault (List Bool) :=
  collect (fun j =>
    match readCell s s.curRow.toNat j with
    | .error f => .error f
    | .ok v => .ok (planeBit v c s.curPlane.toNat)) (List.range s.colCount)

/-- Step 5 for a direct-wired plane: one drive per column, ascending (R147, R148). -/
def directOps (s : State) (c : Nat) (bits : List Bool) : Except Fault (List GpioOp) :=
  collect (fun j =>
    match pinAt s.colPins (colIdx s c j) with
    | .error f => .error f
    | .ok l => .ok (drive l (bits.getD j false))) (List.range s.colCount)

/-- Step 5 for one plane (R148, R149). -/
def planeOps (s : State) (c : Nat) : Except Fault (List GpioOp) :=
  match s.srPins.get? c with
  | none => .error .noSuchPlane
  | some t =>
    match rowBits s c with
    | .error f => .error f
    | .ok bits => if t.wired then .ok (srLoadOps s.params.srOrder t bits) else directOps s c bits

/-- The events of an invocation, steps 4 to 6 (R146 to R151): old row off, planes ascending, new row on. -/
def invocationOps (s : State) : Except Fault (List GpioOp) :=
  match pinAt s.rowPins (oldRow s), collect (planeOps s) (List.range s.planeCount),
    pinAt s.rowPins s.curRow.toNat with
  | .ok old, .ok planes, .ok new => .ok ([.driveHigh old] ++ planes.flatten ++ [.driveLow new])
  | .error f, _, _ => .error f
  | _, .error f, _ => .error f
  | _, _, .error f => .error f

/-- Step 7, cursor advance (R152). -/
def advanceCursor (s : State) : State :=
  if s.curRow.toNat + 1 = s.rowCount then { s with curRow := 0, curPlane := s.curPlane + 1 }
  else { s with curRow := s.curRow + 1 }

/-- Step 8, runtime: a drawn value (R153). -/
def recordRuntime (s : State) : State :=
  { s with
    runtime := Config.runtimeDraw s.draws.runtime,
    draws := { s.draws with runtime := s.draws.runtime + 1 } }

/-- INVOKE() (R154). -/
def invoke (s : State) : Except Fault State :=
  let s1 := reprogramPeriod (recordLatency s)
  match invocationOps s1 with
  | .error f => .error f
  | .ok ops =>
    match emitAll ops s1 with
    | .error f => .error f
    | .ok s2 => .ok (recordRuntime (advanceCursor s2))

/-- The ENGINE step: dispatch, then the invocation (60_exceptions.md R220). -/
def engineStep (s : State) : Host.Outcome State Fault Refusal := outcomeOf (invoke (takeInterrupt s))

end Sys2Proof.Machine
end

