-- ==== Sys2Proof/Machine/Timer.lean ====
section
/-! DEFINITION. The TICK and RESET agents (60_exceptions.md R215, R216; 70_reset_and_hazards.md R236). -/

namespace Sys2Proof.Machine

/-- The period counter of one TICK (R216); a second expiry leaves the one request as it is (R218). -/
def countTick (s : State) : State :=
  if s.ten then
    if s.count + 1 ≥ s.period then { s with count := 0, irqPending := true }
    else { s with count := s.count + 1 }
  else s

/-- One TICK: the time base (R215), then the period counter (R216). -/
def tickStep (s : State) : State := countTick { s with now := s.now + 1 }

/-- RESET (70_reset_and_hazards.md R236): every state element takes its reset value, and a CLEAR in progress is
abandoned unanswered. The environment (words still to be offered, turns to come, the fairness round), the draw counters
and the parameters are no state elements of LMX and stay (logs 2, 3 and 7). -/
def resetStep (s : State) : State :=
  { State.reset with
    hostQueue := s.hostQueue, schedule := s.schedule, round := s.round, draws := s.draws, params := s.params }

end Sys2Proof.Machine
end

