-- ==== Sys2Proof/Machine/Agents.lean ====
section
/-! DEFINITION. The agents' steps and the choice among them (00_scope.md R12, 10_state.md R60). -/

namespace Sys2Proof.Machine

/-- The HOST agent on one command word (30_encoding.md R83, R84; 60_exceptions.md R204, R205): decode, then execute; an
illegal word is answered ERR_ILLEGAL and changes nothing. -/
def acceptWord (w : CommandWord) (s : State) : Host.Outcome State Fault Refusal :=
  match decodeCommand w with
  | .ok i => exec i s
  | .error _ => .next (respond .errIllegal 0 s)

/-- The HOST agent takes the next word the host offers (R83). -/
def hostStep (s : State) : Host.Outcome State Fault Refusal :=
  match s.hostQueue with
  | [] => .refused .agentNotEnabled
  | w :: rest => acceptWord w { s with hostQueue := rest }

/-- A step of one agent (00_scope.md R12). -/
def runAgent : Agent → State → Host.Outcome State Fault Refusal
  | .host, s => hostStep s
  | .clear, s => clearStep s
  | .tick, s => .next (tickStep s)
  | .engine, s => engineStep s
  | .reset, s => .next (resetStep s)

/-- The first enabled agent of a schedule and the agents after it; one that is not enabled is passed over, since it has
no step (10_state.md R52, R60). -/
def nextTurn (s : State) : List Agent → Option (Agent × List Agent)
  | [] => none
  | a :: rest => if agentEnabled a s then some (a, rest) else nextTurn s rest

/-- A freely drawn agent: the drawn one if it is enabled, else one that is (log 2). -/
def drawnAgent (s : State) : Agent :=
  if agentEnabled (Config.agentDraw s.draws.agent) s then Config.agentDraw s.draws.agent
  else if agentEnabled .tick s then .tick
  else if agentEnabled .engine s then .engine
  else .reset

/-- The round of weak fairness goes through TICK, CLEAR and ENGINE (10_state.md R60), the only agents it is owed. -/
def owedAfter : Agent → Agent
  | .tick => .clear
  | .clear => .engine
  | .engine | .host | .reset => .tick

/-- The agent of an unscheduled step: the owed one when its turn has come and it is enabled, else any one. -/
def unscheduledAgent (s : State) : Agent :=
  if s.round.free = 0 ∧ agentEnabled s.round.owed s = true then s.round.owed else drawnAgent s

/-- The round after an unscheduled step: one free step fewer, or, when the owed agent's turn has been, a new gap before
the next one's. -/
def roundAfter (s : State) : Round :=
  match s.round.free with
  | 0 => ⟨Config.gapDraw (s.draws.agent + 1), owedAfter s.round.owed⟩
  | n + 1 => ⟨n, s.round.owed⟩

/-- The agent that steps and the state it steps in: the chosen agent has left the schedule, or, when no scheduled agent
is enabled, one draw is used up and the round of weak fairness goes on. -/
def chooseTurn (s : State) : Agent × State :=
  match nextTurn s s.schedule with
  | some (a, rest) => (a, { s with schedule := rest })
  | none =>
    (unscheduledAgent s,
      { s with schedule := [], round := roundAfter s, draws := { s.draws with agent := s.draws.agent + 1 } })

/-- Put a command word where the next step takes it (log 8): at the head of the host's queue, with the port free and the
HOST's turn next. -/
def offerWord (w : CommandWord) (s : State) : State :=
  { s with hostQueue := w :: s.hostQueue, schedule := .host :: s.schedule, clearIdx := none }

/-- A constructed matrix of one row and one column, both on line `l`, with a direct-wired plane and a period: BEGIN on it
performs GPIO_CFG_OUT, GPIO_DRIVE_HIGH and GPIO_DRIVE_LOW on `l` (43_controller_config.md R186, log 1). -/
def oneLineMatrix (l : LineId) (s : State) : State :=
  { allocate 1 1 1 s with rowPins := [l], colPins := [l], srPins := State.reset.srPins, base := 1 }

/-- Have the next step run an encoded operation (log 8): a command word is offered; a GPIO primitive, which is no input
of LMX (30_encoding.md R97), is performed by the BEGIN of a matrix on its line (log 1). A word that decodes to nothing is
offered if it is a command word and changes nothing if it is an event word. -/
def offerCode : Code → State → State
  | .command w, s => offerWord w s
  | .event e, s =>
    match decodeEvent e with
    | .ok _ => offerWord (encodeN 0x06#5) (oneLineMatrix (e.extractLsb' 0 8) s)
    | .error _ => s

end Sys2Proof.Machine
end

