-- ==== Sys2Proof/Machine/Step.lean ====
section
/-! DEFINITION. One step: the step of the agent whose turn R60 lets come next. LMX fetches nothing (10_state.md R24,
20_memory.md R79); what stands in a fetch's place is the host's queue of command words. -/

namespace Sys2Proof.Machine

def step (s : State) : Host.Outcome State Fault Refusal :=
  runAgent (chooseTurn s).1 (chooseTurn s).2

/-- The state whose very next step runs the operation that `w`, `nbits` wide, encodes (logs 1 and 8); a width that no
operation has changes nothing. -/
def State.withFetchWord (s : State) (nbits w : Nat) : State :=
  match codeOfBits nbits w with
  | .ok c => offerCode c s
  | .error _ => s

end Sys2Proof.Machine
end

