-- ==== Sys2Proof/Safety.lean ====
section
/-! DEFINITION. What a safe run of LMX is, in the terms the statements use: the invariant of every run, the legality
table as the spec prints it, what a trace says of the lines, runs by agent, weak fairness, the prompt-dispatch timing
law, and the external shift register of 40_gpio_shiftreg.md R121. -/

namespace Sys2Proof.Safety

open Sys2Proof.Machine

/-! ### The legality table and the pins in use -/

/-- The legality table as 60_exceptions.md R203 prints it, one line a row. -/
def legality : Instr → Lifecycle → Bool
  | .construct _ _ _, lc => lc == .unconstructed
  | .rowpin _, lc | .colpin _, lc | .srpins _ _ _ _, lc | .period _, lc | .begin, lc => lc == .constructed
  | .clear, lc | .fbwr _ _ _, lc | .fbrd _ _, lc => lc == .constructed || lc == .running
  | .writedisplay, lc => lc == .unconstructed || lc == .constructed || lc == .running
  | .rdruntime, _ | .rdlatency, _ | .rdstatus, _ | .rdperiod _, _ | .rdcursor, _ | .rdtables, _ => true
  | .gpioCfgOut _, _ | .gpioDriveLow _, _ | .gpioDriveHigh _, _ => true

/-- The triples of the SR-wired planes below PLANES. -/
def wiredTriples (s : State) : List SrTriple :=
  (List.range s.planeCount).filterMap fun c => (s.srPins.get? c).filter SrTriple.wired

/-- The lines of the SR-wired planes. -/
def srLines (s : State) : List LineId := (wiredTriples s).flatMap fun t => [t.data, t.clock, t.latch]

/-- Every line BEGIN configures and the engine drives (40_gpio_shiftreg.md R115). -/
def usedLines (s : State) : List LineId := s.rowPins ++ s.colPins ++ srLines s

/-- The premise of 42_refresh_engine.md R158: row lines are distinct and have no other role. -/
def RowLinesApart (s : State) : Prop :=
  s.rowPins.Nodup ∧ ∀ l ∈ s.rowPins, l ∉ s.colPins ∧ l ∉ srLines s

/-! ### Event words and event lists as the spec writes them -/

/-- `CFG l` = 0x0000 | l (30_encoding.md R96). -/
def cfgWord (l : LineId) : EventWord := 0x0000#16 ||| l.setWidth 16

/-- `LO l` = 0x2000 | l (R96). -/
def loWord (l : LineId) : EventWord := 0x2000#16 ||| l.setWidth 16

/-- `HI l` = 0x4000 | l (R96). -/
def hiWord (l : LineId) : EventWord := 0x4000#16 ||| l.setWidth 16

/-- The word of DRIVE(l, bit) (40_gpio_shiftreg.md R114). -/
def driveWord (l : LineId) (bit : Bool) : EventWord := if bit then hiWord l else loWord l

/-- The words of SR_LOAD(c, bits), the bits taken in the shift order (40_gpio_shiftreg.md R117, R118). -/
def srLoadWords (o : SrOrder) (t : SrTriple) (bits : List Bool) : List EventWord :=
  [loWord t.latch] ++
    ((if o = .asc then bits else bits.reverse).flatMap fun b => [driveWord t.data b, hiWord t.clock, loWord t.clock]) ++
    [hiWord t.latch]

/-- The words of BEGIN's initialisation (43_controller_config.md R186). -/
def beginWords (s : State) : List EventWord :=
  (s.rowPins.flatMap fun l => [cfgWord l, hiWord l]) ++
    (s.colPins.flatMap fun l => [cfgWord l, loWord l]) ++
    ((wiredTriples s).flatMap fun t =>
      [cfgWord t.data, loWord t.data, cfgWord t.clock, loWord t.clock, cfgWord t.latch, hiWord t.latch] ++
        srLoadWords s.params.srOrder t (List.replicate s.colCount false))

/-- The bit of plane c, column j, of the row and bit-plane under the cursor (41_framebuffer.md R126). -/
def shownBit (s : State) (c j : Nat) : Bool :=
  ((s.fb.read (s.curRow.toNat * s.colCount + j)).getD 0).getLsbD (4 * c + s.curPlane.toNat)

/-- The words of step 5 for plane c (42_refresh_engine.md R147 to R149). -/
def planeWords (s : State) (c : Nat) : List EventWord :=
  match (s.srPins.get? c).filter SrTriple.wired with
  | some t => srLoadWords s.params.srOrder t ((List.range s.colCount).map (shownBit s c))
  | none =>
    (List.range s.colCount).map fun j =>
      let index := if s.colPins.length = s.colCount * s.planeCount ∧ 1 < s.planeCount then c * s.colCount + j else j
      driveWord (s.colPins.getD index noneLine) (shownBit s c j)

/-- The words of one invocation (42_refresh_engine.md R144, R146, R150, R151). -/
def invocationWords (s : State) : List EventWord :=
  [hiWord (s.rowPins.getD (if s.curRow = 0 then s.rowCount - 1 else s.curRow.toNat - 1) noneLine)] ++
    (List.range s.planeCount).flatMap (planeWords s) ++
    [loWord (s.rowPins.getD s.curRow.toNat noneLine)]

/-! ### The invariant -/

/-- A geometry a successful CONSTRUCT leaves (10_state.md R26 to R28). -/
def GeometryLegal (s : State) : Prop :=
  1 ≤ s.rowCount ∧ s.rowCount ≤ 32 ∧ 1 ≤ s.colCount ∧ s.colCount ≤ 64 ∧ 1 ≤ s.planeCount ∧ s.planeCount ≤ 4

/-- No geometry. -/
def GeometryZero (s : State) : Prop := s.rows = 0 ∧ s.cols = 0 ∧ s.planes = 0

/-- What holds in every state of a run of LMX: 10_state.md R26 to R53. -/
structure Inv (s : State) : Prop where
  /-- FB holds exactly ROWS × COLS cells (R46, R61). -/
  cells : s.fb.map Prod.fst = List.range s.cellCount
  /-- FB fits its capacity (20_memory.md R70). -/
  capacity : s.cellCount ≤ s.params.fbWords
  /-- The lines stand in canonical form, and the listed ones are configured and have a level (R49, R50). -/
  linesRising : risingKeys s.lines
  linesDriven : ∀ p ∈ s.lines, p.1 < 255 ∧ p.2.mode = .output ∧ p.2.level ≠ .z
  /-- Table lengths (R29, R30). -/
  rowTable : s.rowPins.length ≤ 32
  colTable : s.colPins.length ≤ 256
  /-- Geometry by lifecycle (R26 to R28). -/
  geometryNone : s.lc = .unconstructed → GeometryZero s
  geometryLegal : s.lc = .constructed ∨ s.lc = .running → GeometryLegal s
  geometryHalted : s.lc = .halted → GeometryZero s ∨ GeometryLegal s
  /-- Triples of planes c ≥ PLANES keep their reset value (93_implementation_defined.md). -/
  unusedTriples : ∀ c, s.planeCount ≤ c → c < 4 → s.srPins.get? c = some SrTriple.none
  /-- A CLEAR in progress (R48), unanswered (R83). -/
  clearing : ∀ i, s.clearIdx = some i →
    (s.lc = .constructed ∨ s.lc = .running) ∧ i < s.cellCount ∧ s.response = none
  /-- DIAG (R22, 60_exceptions.md R207). -/
  diagnosis : (s.lc = .halted ↔ s.diag ≠ 0) ∧ s.diag.toNat ≤ 7
  /-- The timer runs in RUNNING only (R41, 60_exceptions.md R228). -/
  timerOn : s.ten = true ↔ s.lc = .running
  noRequest : s.lc ≠ .running → s.irqPending = false
  /-- Before BEGIN nothing has been driven and the timer is untouched (R34, 60_exceptions.md R206). -/
  idle : s.lc ≠ .running → s.ptable = ⟨0, 0, 0, 0⟩ ∧ s.period = 0 ∧ s.count = 0 ∧ s.lines = [] ∧ s.trace = []
  /-- BEGIN's validation still holds (R53, 43_controller_config.md R181). -/
  validated : s.lc = .running → beginFailure s = none
  /-- The period table, and PERIOD = PTABLE[SLOT] (43_controller_config.md R187, 10_state.md R37). -/
  periods : s.lc = .running → s.ptable = periodTable s.base ∧ s.period = periodEntry s s.slot
  /-- The cursor (R35). -/
  cursor : s.lc = .running → s.curRow.toNat < s.rowCount
  /-- SLOT is the bit-plane of the sweep under way, or of the sweep just ended (R37, R53). -/
  sweep : s.lc = .running →
    (s.curRow ≠ 0 → s.slot = s.curPlane) ∧
    (s.curRow = 0 → s.curPlane = s.slot + 1 ∨ (s.slot = 0 ∧ s.curPlane = 0))
  /-- Every line the engine drives is configured (40_gpio_shiftreg.md R115). -/
  ready : s.lc = .running → ∀ l ∈ usedLines s, l ≠ noneLine ∧ (lineAt s l).mode = .output
  /-- TRACE holds event words only (30_encoding.md R97). -/
  traceEvents : ∀ e ∈ s.trace, (decodeEvent e).toOption.isSome = true

/-! ### What a trace says of the lines -/

/-- The level a trace last drove a line to; none if it never drove it. -/
def lastDrive (l : LineId) (tr : List EventWord) : Option Bool :=
  tr.foldl (fun acc e =>
    if e = eventWord (.driveLow l) then some false
    else if e = eventWord (.driveHigh l) then some true
    else acc) none

/-- Mode and level of every line follow from TRACE (40_gpio_shiftreg.md R122, R124). -/
def LevelsFollowTrace (s : State) : Prop :=
  ∀ l : LineId,
    match lastDrive l s.trace with
    | some b => lineAt s l = ⟨.output, .ofBit b⟩
    | none =>
      if eventWord (.cfgOut l) ∈ s.trace then (lineAt s l).mode = .output ∧ (lineAt s l).level ≠ .z
      else lineAt s l = .undriven

/-- At most one of the row lines is on (driven low) after a trace (40_gpio_shiftreg.md R116, 42_refresh_engine.md
R158). -/
def AtMostOneOn (rowPins : List LineId) (tr : List EventWord) : Prop :=
  ∀ l₁ ∈ rowPins, ∀ l₂ ∈ rowPins, lastDrive l₁ tr = some false → lastDrive l₂ tr = some false → l₁ = l₂

/-- The one-row property at every point of TRACE, with what makes it inductive: every row but the one last lit is off. -/
def OneRowOn (s : State) : Prop :=
  s.lc = .running → RowLinesApart s →
    (∀ n, AtMostOneOn s.rowPins (s.trace.take n)) ∧
    ∀ (r : Nat) (l : LineId), s.rowPins[r]? = some l → r ≠ oldRow s → lastDrive l s.trace = some true

/-! ### Runs -/

/-- Finitely many steps of enabled agents, all of them allowed. -/
inductive AgentSteps (allowed : Agent → Prop) : State → State → Prop where
  | refl (s : State) : AgentSteps allowed s s
  | step {s t u : State} (a : Agent) : allowed a → agentEnabled a s = true → runAgent a s = .next t →
      AgentSteps allowed t u → AgentSteps allowed s u

/-- `n` refresh invocations in a row, each an ENGINE step. -/
def invocations : Nat → State → Host.Outcome State Fault Refusal
  | 0, s => .next s
  | n + 1, s =>
    match engineStep s with
    | .next t => invocations n t
    | .fault f => .fault f
    | .refused r => .refused r

/-- `n` TICKs in a row. -/
def ticks : Nat → State → State
  | 0, s => s
  | n + 1, s => ticks n (tickStep s)

/-- `n` CLEAR steps in a row. -/
def clearSteps : Nat → State → Host.Outcome State Fault Refusal
  | 0, s => .next s
  | n + 1, s =>
    match clearStep s with
    | .next t => clearSteps n t
    | .fault f => .fault f
    | .refused r => .refused r

/-- Operations executed one after another. -/
def execAll : List Instr → State → Host.Outcome State Fault Refusal
  | [], s => .next s
  | i :: is, s =>
    match exec i s with
    | .next t => execAll is t
    | .fault f => .fault f
    | .refused r => .refused r

/-- Agents moving in a given order; one that is not enabled when its turn comes is passed over (10_state.md R60). -/
def runAgents : List Agent → State → Host.Outcome State Fault Refusal
  | [], s => .next s
  | a :: rest, s =>
    if agentEnabled a s then
      match runAgent a s with
      | .next t => runAgents rest t
      | .fault f => .fault f
      | .refused r => .refused r
    else runAgents rest s

/-- An infinite run, from any state; the HOST steps finitely often in it, since hostQueue is finite (log 17). -/
def IsRun (run : Nat → State) : Prop := ∀ n, step (run n) = .next (run (n + 1))

/-- Agent `a` moves at step `n` of a run. -/
def Moves (run : Nat → State) (a : Agent) (n : Nat) : Prop := (chooseTurn (run n)).1 = a

/-- Weak fairness for an agent: if it stays enabled it eventually steps (10_state.md R60). -/
def FairTo (a : Agent) (run : Nat → State) : Prop :=
  ∀ n, (∀ m, n ≤ m → agentEnabled a (run m) = true) → ∃ m, n ≤ m ∧ Moves run a m

/-- The weak fairness of 10_state.md R60: for TICK, CLEAR and ENGINE. -/
def WeaklyFair (run : Nat → State) : Prop := FairTo .tick run ∧ FairTo .clear run ∧ FairTo .engine run

/-! ### Timing -/

/-- With PROMPT_DISPATCH every pending request waits at its expiry, and COUNT is the time since the last start
(42_refresh_engine.md R156, 60_exceptions.md R221, 10_state.md R39). -/
def PromptTiming (s : State) : Prop :=
  s.params.promptDispatch = true → s.lc = .running →
    if s.irqPending then s.count = 0 ∧ s.now = s.lastStart + s.period
    else s.now = s.lastStart + s.count ∧ s.count < s.period

/-! ### The external shift register (40_gpio_shiftreg.md R121: an observer outside LMX, PRESUMED there, log 16) -/

/-- Stages and outputs, nearest the input first, and the levels last seen on its three lines. -/
structure ShiftRegister where
  stages : List Bool
  outputs : List Bool
  dataLevel : Bool
  clockLevel : Bool
  latchLevel : Bool
deriving DecidableEq, Repr

/-- One event: a rising clock shifts the data level in, a rising latch copies the stages to the outputs. -/
def ShiftRegister.see (t : SrTriple) (q : ShiftRegister) : GpioOp → ShiftRegister
  | .cfgOut _ => q
  | .driveLow l =>
    { q with
      dataLevel := if l = t.data then false else q.dataLevel,
      clockLevel := if l = t.clock then false else q.clockLevel,
      latchLevel := if l = t.latch then false else q.latchLevel }
  | .driveHigh l =>
    let d := if l = t.data then true else q.dataLevel
    let stages := if l = t.clock && !q.clockLevel then d :: q.stages.dropLast else q.stages
    { stages := stages,
      outputs := if l = t.latch && !q.latchLevel then stages else q.outputs,
      dataLevel := d,
      clockLevel := if l = t.clock then true else q.clockLevel,
      latchLevel := if l = t.latch then true else q.latchLevel }

end Sys2Proof.Safety
end

