-- ==== Sys2Proof/Certificates/Slice0/Obligations.lean ====
section
/-! DEFINITION. The statements about LMX, one Prop each, in the order of OBLIGATIONS.json. A statement about an
instruction gives its next state by a record update, so that every field it does not name is unchanged. -/

open Sys2Proof Sys2Proof.Machine Sys2Proof.Safety

/-! ### Encoding -/

/-- Decoding the words of a well-formed operation gives it back, whatever its operands. -/
def Obligations.DecodeOfEncode : Prop :=
  ∀ i : Instr, i.wellFormed = true → decode (encode i) = .ok i

/-- A word that decodes is the one word of its operation. -/
def Obligations.EncodeOfDecode : Prop :=
  ∀ (c : Code) (i : Instr), decode c = .ok i → encode i = c ∧ i.wellFormed = true

/-- Words written out in 95_test_vectors.md sections 2.1 and 2.2, with what they stand for. -/
def Obligations.SpecWordsDecode : Prop :=
  decodeCommand 0x09020800#32 = .ok (.construct 8 8 1) ∧
  decodeCommand 0x0C102000#32 = .ok (.construct 32 64 4) ∧
  decodeCommand 0x10000005#32 = .ok (.rowpin 5) ∧
  decodeCommand 0x18000011#32 = .ok (.colpin 0x11) ∧
  decodeCommand 0x22202122#32 = .ok (.srpins 1 0x20 0x21 0x22) ∧
  decodeCommand 0x280000C8#32 = .ok (.period 200) ∧
  decodeCommand 0x30000000#32 = .ok .begin ∧
  decodeCommand 0x48411234#32 = .ok (.fbwr 1 1 0x1234) ∧
  decodeCommand 0x50410000#32 = .ok (.fbrd 1 1) ∧
  decodeCommand 0x70000003#32 = .ok (.rdperiod 3) ∧
  decodeCommand 0x88000000#32 = .error .unassignedOpcode ∧
  decodeCommand 0x09020801#32 = .error .reservedBitSet ∧
  decodeEvent 0x0005#16 = .ok (.gpioCfgOut 5) ∧
  decodeEvent 0x2010#16 = .ok (.gpioDriveLow 0x10) ∧
  decodeEvent 0x40FE#16 = .ok (.gpioDriveHigh 0xFE)

/-- R84: a word that selects a row of the opcode map is a command and is executed; any other is answered ERR_ILLEGAL
and changes nothing else; no word selects two rows. -/
def Obligations.OpcodeMapDecidesDecoding : Prop :=
  ∀ (w : CommandWord) (s : State),
    ((∃ r ∈ opcodeMap, w &&& r.mask = r.bits) →
      ∃ i, i.isCommand = true ∧ decodeCommand w = .ok i ∧ acceptWord w s = exec i s) ∧
    ((¬∃ r ∈ opcodeMap, w &&& r.mask = r.bits) →
      acceptWord w s = .next { s with response := some ⟨.errIllegal, 0⟩ }) ∧
    ∀ r₁ ∈ opcodeMap, ∀ r₂ ∈ opcodeMap, w &&& r₁.mask = r₁.bits → w &&& r₂.mask = r₂.bits → r₁ = r₂

/-! ### Steps and agents -/

/-- A step whose turn is the HOST's runs the decoded command word at the head of the host's queue, the word and the
turn being used up. A GPIO primitive, which no step takes as input (30_encoding.md R97), runs inside BEGIN and the engine:
what they emit is what their event words, decoded and executed one after another, do. -/
def Obligations.StepRunsDecodedOperation : Prop :=
  (∀ (s : State) (w : CommandWord) (q : List CommandWord) (rest : List Agent) (i : Instr),
    s.schedule = .host :: rest → s.hostQueue = w :: q → s.clearIdx = none → decodeCommand w = .ok i →
      step s = exec i { s with schedule := rest, hostQueue := q }) ∧
  ∀ (s : State) (ops : List GpioOp), (∀ op ∈ ops, op.line ≠ noneLine) →
    ∃ is : List Instr, ops.map (fun op => decodeEvent (eventWord op)) = is.map .ok ∧
      outcomeOf (emitAll ops s) = execAll is s

/-- Any enabled agent may be the one that steps next, whatever the rest of the state. -/
def Obligations.StepTakesScheduledAgent : Prop :=
  ∀ (s : State) (a : Agent) (rest : List Agent), s.schedule = a :: rest → agentEnabled a s = true →
    step s = runAgent a { s with schedule := rest }

/-- Every step, whatever the schedule, is the step of exactly one of the five agents, an enabled one; choosing it touches
only the schedule, the fairness round and the draw counter (the model's own, log 2). -/
def Obligations.EveryStepIsOneEnabledTurn : Prop :=
  ∀ s : State, ∃ (a : Agent) (rest : List Agent) (r : Round) (n : Nat),
    agentEnabled a s = true ∧
    step s = runAgent a { s with schedule := rest, round := r, draws := { s.draws with agent := n } }

/-- Every infinite run of steps, from any state, is weakly fair to TICK, CLEAR and ENGINE: one that stays enabled from
some step on moves at that step or later. (The host's sequence of words is finite in every run of the model, log 17; the
statement does not rest on it.) -/
def Obligations.EveryRunIsWeaklyFair : Prop := ∀ run : Nat → State, IsRun run → WeaklyFair run

/-- When each agent is enabled. -/
def Obligations.AgentEnablingConditions : Prop :=
  ∀ s : State,
    (agentEnabled .host s = true ↔ s.hostQueue ≠ [] ∧ s.clearIdx = none) ∧
    (agentEnabled .clear s = true ↔ s.clearIdx ≠ none) ∧
    (agentEnabled .tick s = true ↔
      ¬(s.params.promptDispatch = true ∧ s.irqPending = true ∧ s.lc = .running)) ∧
    (agentEnabled .engine s = true ↔ s.irqPending = true ∧ s.lc = .running ∧ s.ten = true) ∧
    agentEnabled .reset s = true

/-- RESET may step in any state and gives every state element the reset value of R236; the state after power-on has the
same values. That the response field (the model's own) is empty after power-on, and after a RESET with or without a CLEAR
in progress, is the model's choice (log 7): R236 says only that an abandoned CLEAR gets no response. -/
def Obligations.ResetSetsEveryElement : Prop :=
  ∀ s : State, agentEnabled .reset s = true ∧ ∃ t, runAgent .reset s = .next t ∧
    ∀ u, u = t ∨ u = State.reset →
      u.lc = .unconstructed ∧ u.diag = 0 ∧ u.rows = 0 ∧ u.cols = 0 ∧ u.planes = 0 ∧
      u.rowPins = [] ∧ u.colPins = [] ∧ (∀ c, c < 4 → u.srPins.get? c = some ⟨0xFF, 0xFF, 0xFF⟩) ∧
      u.base = 0 ∧ (∀ c, c < 4 → u.ptable.get? c = some 0) ∧
      u.curRow = 0 ∧ u.curPlane = 0 ∧ u.slot = 0 ∧ u.now = 0 ∧ u.count = 0 ∧ u.period = 0 ∧
      u.ten = false ∧ u.irqPending = false ∧ u.lastStart = 0 ∧ u.runtime = 0 ∧ u.latency = 0 ∧
      u.fb = [] ∧ u.clearIdx = none ∧ (∀ l, lineAt u l = ⟨.unconfigured, .z⟩) ∧ u.trace = [] ∧
      u.response = none

/-! ### The invariant -/

/-- The invariant holds after reset. -/
def Obligations.InvHoldsAtReset : Prop := Inv State.reset

/-- Every step keeps the invariant. -/
def Obligations.StepKeepsInv : Prop := ∀ s t : State, Inv s → step s = .next t → Inv t

/-- From the invariant every step answers a next state: no fault, no refusal, whatever the host offers and whichever
agent moves. -/
def Obligations.EveryStepFromInvAnswersNext : Prop := ∀ s : State, Inv s → ∃ t, step s = .next t

/-- No step changes the parameters of the instance (held in State by the model's choice, log 3), of which FB_WORDS is at
least 1. -/
def Obligations.ParametersNeverChange : Prop :=
  ∀ s t : State, step s = .next t → t.params = s.params ∧ 1 ≤ t.params.fbWords

/-! ### The check order and the responses -/

/-- R203: a command not legal in LC is refused, with ERR_HALTED in HALTED and ERR_STATE elsewhere, and changes nothing
else; a legal one is not refused for its lifecycle state (ERR_HALTED then means that it halted itself). -/
def Obligations.LifecycleGateRefuses : Prop :=
  ∀ (i : Instr) (s : State), i.isCommand = true →
    (legality i s.lc = false →
      exec i s = .next { s with response := some ⟨if s.lc = .halted then .errHalted else .errState, 0⟩ }) ∧
    (legality i s.lc = true → ∀ (t : State) (r : Response), exec i s = .next t → t.response = some r →
      r.status ≠ .errState ∧ (r.status = .errHalted → s.lc ≠ .halted ∧ t.lc = .halted))

/-- R205: a refusal has no effect. -/
def Obligations.RefusalsWriteNothing : Prop :=
  ∀ (w : CommandWord) (s t : State) (r : Response), acceptWord w s = .next t → t.response = some r →
    (r.status = .errIllegal ∨ r.status = .errState ∨ r.status = .errFull ∨ r.status = .errArg ∨
      (r.status = .errHalted ∧ s.lc = .halted)) →
    t = { s with response := some ⟨r.status, 0⟩ }

/-- Every command but a started CLEAR is answered in its own step; DATA is 0 except for a successful read and for a
halt, whose DATA is the DIAG code. The last clause follows 60_exceptions.md R202 and R206 and reads R82's sentence on DATA
as not speaking of halts (the model's reading, log 14). -/
def Obligations.ResponsesAndTheirData : Prop :=
  ∀ (i : Instr) (s t : State), i.isCommand = true → exec i s = .next t →
    (t.response = none → i = .clear) ∧
    ∀ r, t.response = some r →
      r.data = 0 ∨
      (r.status = .ok ∧ (legality i .halted = true ∨ ∃ row col, i = .fbrd row col)) ∨
      (r.status = .errHalted ∧ t.lc = .halted ∧ r.data = t.diag.setWidth 32)

/-! ### Construction and bring-up -/

/-- CONSTRUCT in UNCONSTRUCTED: BAD_GEOMETRY, then ALLOC_FAIL, then allocation with every cell drawn (the form of the
draw is the model's, log 4); the smallest matrix always fits. That a halt's DATA is the DIAG code follows R206, against
R82's sentence on DATA (the model's reading, log 14). -/
def Obligations.ConstructAllocatesOrHalts : Prop :=
  ∀ (r : BitVec 6) (c : BitVec 7) (p : BitVec 3) (s : State), s.lc = .unconstructed →
    (¬(1 ≤ r.toNat ∧ r.toNat ≤ 32 ∧ 1 ≤ c.toNat ∧ c.toNat ≤ 64 ∧ 1 ≤ p.toNat ∧ p.toNat ≤ 4) →
      exec (.construct r c p) s =
        .next { s with lc := .halted, diag := 2, ten := false, irqPending := false, response := some ⟨.errHalted, 2⟩ }) ∧
    (1 ≤ r.toNat ∧ r.toNat ≤ 32 ∧ 1 ≤ c.toNat ∧ c.toNat ≤ 64 ∧ 1 ≤ p.toNat ∧ p.toNat ≤ 4 →
      (s.params.fbWords < r.toNat * c.toNat →
        exec (.construct r c p) s =
          .next { s with
            lc := .halted, diag := 1, ten := false, irqPending := false, response := some ⟨.errHalted, 1⟩ }) ∧
      (r.toNat * c.toNat ≤ s.params.fbWords ∨ (r = 1 ∧ c = 1) →
        ∃ t, exec (.construct r c p) s = .next t ∧
          t = { s with
            rows := r, cols := c, planes := p, fb := t.fb, lc := .constructed, response := some ⟨.ok, 0⟩,
            draws := { s.draws with fb := s.draws.fb + r.toNat * c.toNat } } ∧
          ∀ i, t.fb.read i =
            if i < r.toNat * c.toNat then some (Config.fbInitDraw (s.draws.fb + i)) else none))

/-- ROWPIN and COLPIN in CONSTRUCTED append their pin to their own table, whatever the pin, unless it is full. -/
def Obligations.PinCommandsAppend : Prop :=
  ∀ (pin : LineId) (s : State), s.lc = .constructed →
    (s.rowPins.length ≠ 32 →
      exec (.rowpin pin) s = .next { s with rowPins := s.rowPins ++ [pin], response := some ⟨.ok, 0⟩ }) ∧
    (s.rowPins.length = 32 → exec (.rowpin pin) s = .next { s with response := some ⟨.errFull, 0⟩ }) ∧
    (s.colPins.length ≠ 256 →
      exec (.colpin pin) s = .next { s with colPins := s.colPins ++ [pin], response := some ⟨.ok, 0⟩ }) ∧
    (s.colPins.length = 256 → exec (.colpin pin) s = .next { s with response := some ⟨.errFull, 0⟩ })

/-- SRPINS in CONSTRUCTED sets the triple of its plane, and only that one; ERR_ARG for a plane the matrix lacks. -/
def Obligations.SrpinsSetsOneTriple : Prop :=
  ∀ (plane : BitVec 2) (d k l : LineId) (s : State), s.lc = .constructed →
    (plane.toNat < s.planes.toNat →
      ∃ t, exec (.srpins plane d k l) s = .next t ∧
        t = { s with srPins := t.srPins, response := some ⟨.ok, 0⟩ } ∧
        ∀ c, t.srPins.get? c = if c = plane.toNat then some ⟨d, k, l⟩ else s.srPins.get? c) ∧
    (s.planes.toNat ≤ plane.toNat →
      exec (.srpins plane d k l) s = .next { s with response := some ⟨.errArg, 0⟩ })

/-- PERIOD in CONSTRUCTED sets BASE, 0 included. -/
def Obligations.PeriodSetsBase : Prop :=
  ∀ (us : BitVec 24) (s : State), s.lc = .constructed →
    exec (.period us) s = .next { s with base := us, response := some ⟨.ok, 0⟩ }

/-- BEGIN's checks in the order of R181 to R185; the first that fails halts, with nothing emitted and TEN = 0. That a
halt's DATA is the DIAG code follows 60_exceptions.md R206, against R82's sentence on DATA (the model's reading, log 14). -/
def Obligations.BeginHaltsOnFirstFailedCheck : Prop :=
  ∀ s : State, s.lc = .constructed →
    let haltedWith (d : BitVec 8) : State :=
      { s with
        lc := .halted, diag := d, ten := false, irqPending := false,
        response := some ⟨.errHalted, d.setWidth 32⟩ }
    let rowsMatch := s.rowPins.length = s.rows.toNat
    let colsMatch :=
      s.colPins.length = s.cols.toNat ∨ s.colPins.length = s.cols.toNat * s.planes.toNat ∨
        (s.colPins.length = 0 ∧ ∀ c, c < s.planes.toNat → direct s c = false)
    let pinsNamed := noneLine ∉ s.rowPins ∧ noneLine ∉ s.colPins
    let triplesWhole := ∀ c, c < s.planes.toNat → direct s c = true ∨ srWired s c = true
    (¬rowsMatch → exec .begin s = .next (haltedWith 3)) ∧
    (rowsMatch → ¬colsMatch → exec .begin s = .next (haltedWith 4)) ∧
    (rowsMatch → colsMatch → ¬pinsNamed → exec .begin s = .next (haltedWith 7)) ∧
    (rowsMatch → colsMatch → pinsNamed → ¬triplesWhole → exec .begin s = .next (haltedWith 5)) ∧
    (rowsMatch → colsMatch → pinsNamed → triplesWhole → s.base = 0 → exec .begin s = .next (haltedWith 6)) ∧
    (rowsMatch → colsMatch → pinsNamed → triplesWhole → s.base ≠ 0 →
      ∃ t, exec .begin s = .next t ∧ t.lc = .running)

/-- R187, R188: a BEGIN that passes its checks sets the period table and the timer and cursor registers, and changes
nothing else but the lines, TRACE and its draws of GPIO_CFG_DRAW. -/
def Obligations.BeginLaunches : Prop :=
  ∀ s : State, s.lc = .constructed → beginFailure s = none →
    ∃ t, exec .begin s = .next t ∧
      t = { s with
        ptable := t.ptable, curRow := 0, curPlane := 0, slot := 0, period := s.base.setWidth 32, count := 0,
        irqPending := false, lastStart := s.now, ten := true, lc := .running, response := some ⟨.ok, 0⟩,
        lines := t.lines, trace := t.trace, draws := { s.draws with gpio := t.draws.gpio } } ∧
      ∀ i : BitVec 2, (t.ptable.at i).toNat = s.base.toNat * 2 ^ i.toNat

/-- R186, R190: what BEGIN emits, and how much. -/
def Obligations.BeginEmitsItsInitialisation : Prop :=
  ∀ s t : State, s.lc = .constructed → beginFailure s = none → exec .begin s = .next t →
    t.trace = s.trace ++ beginWords s ∧
    t.trace.length = s.trace.length + 2 * s.rows.toNat + 2 * s.colPins.length +
      (wiredTriples s).length * (6 + 2 + 3 * s.cols.toNat)

/-- The levels after BEGIN, for lines without a second role: rows high, columns low, latches high, clocks and data
low; every line of the tables is an output. -/
def Obligations.BeginLaunchLevels : Prop :=
  ∀ s t : State, s.lc = .constructed → beginFailure s = none → exec .begin s = .next t →
    let datas := (wiredTriples s).map SrTriple.data
    let clocks := (wiredTriples s).map SrTriple.clock
    let latches := (wiredTriples s).map SrTriple.latch
    (∀ l ∈ usedLines s, (lineAt t l).mode = .output) ∧
    (∀ l ∈ s.rowPins, l ∉ s.colPins → l ∉ srLines s → (lineAt t l).level = .high) ∧
    (∀ l ∈ s.colPins, l ∉ latches → (lineAt t l).level = .low) ∧
    (∀ l ∈ datas ++ clocks, l ∉ latches → (lineAt t l).level = .low) ∧
    (∀ l ∈ latches, l ∉ datas ++ clocks → (lineAt t l).level = .high)

/-! ### The frame buffer -/

/-- FBWR in range writes its one cell and no other; out of range it writes nothing and still answers OK. -/
def Obligations.FbwrWritesOneCell : Prop :=
  ∀ (row : BitVec 5) (col : BitVec 6) (v : CellValue) (s : State), s.lc = .constructed ∨ s.lc = .running →
    let i := row.toNat * s.cols.toNat + col.toNat
    (row.toNat < s.rows.toNat → col.toNat < s.cols.toNat → (s.fb.read i).isSome = true →
      ∃ t, exec (.fbwr row col v) s = .next t ∧
        t = { s with fb := t.fb, response := some ⟨.ok, 0⟩ } ∧
        ∀ j, t.fb.read j = if j = i then some v else s.fb.read j) ∧
    (¬(row.toNat < s.rows.toNat ∧ col.toNat < s.cols.toNat) →
      exec (.fbwr row col v) s = .next { s with response := some ⟨.ok, 0⟩ })

/-- FBRD in range answers its cell; out of range it answers 0; it writes nothing. -/
def Obligations.FbrdReadsOneCell : Prop :=
  ∀ (row : BitVec 5) (col : BitVec 6) (s : State), s.lc = .constructed ∨ s.lc = .running →
    (∀ v, row.toNat < s.rows.toNat → col.toNat < s.cols.toNat →
      s.fb.read (row.toNat * s.cols.toNat + col.toNat) = some v →
      exec (.fbrd row col) s = .next { s with response := some ⟨.ok, v.setWidth 32⟩ }) ∧
    (¬(row.toNat < s.rows.toNat ∧ col.toNat < s.cols.toNat) →
      exec (.fbrd row col) s = .next { s with response := some ⟨.ok, 0⟩ })

/-- A cell written by FBWR reads back by FBRD, whatever TICK and ENGINE steps fall between. -/
def Obligations.RoundTripAcrossInterrupts : Prop :=
  ∀ (row : BitVec 5) (col : BitVec 6) (v : CellValue) (s : State), Inv s → s.lc = .constructed ∨ s.lc = .running →
    row.toNat < s.rows.toNat → col.toNat < s.cols.toNat →
    ∃ t, exec (.fbwr row col v) s = .next t ∧
      ∀ u, AgentSteps (fun a => a = .tick ∨ a = .engine) t u →
        exec (.fbrd row col) u = .next { u with response := some ⟨.ok, v.setWidth 32⟩ }

/-- CLEAR's HOST step starts the clearing, writes no cell and answers nothing yet. -/
def Obligations.ClearStarts : Prop :=
  ∀ s : State, s.lc = .constructed ∨ s.lc = .running →
    exec .clear s = .next { s with clearIdx := some 0, response := none }

/-- One CLEAR step zeroes the cell at CLEAR_IDX and no other, then moves on or, at the last cell, answers OK. -/
def Obligations.ClearStepZeroesOneCell : Prop :=
  ∀ (s : State) (i : Nat), s.clearIdx = some i → (s.fb.read i).isSome = true →
    ∃ t, runAgent .clear s = .next t ∧
      (∀ j, t.fb.read j = if j = i then some 0 else s.fb.read j) ∧
      (i + 1 = s.rows.toNat * s.cols.toNat →
        t = { s with fb := t.fb, clearIdx := none, response := some ⟨.ok, 0⟩ }) ∧
      (i + 1 ≠ s.rows.toNat * s.cols.toNat → t = { s with fb := t.fb, clearIdx := some (i + 1) })

/-- After n CLEAR steps the cells below n are 0 and the others as they were; the step that zeroes the last cell answers
OK and frees the port. -/
def Obligations.ClearRunZeroesEveryCell : Prop :=
  ∀ s : State, s.fb.map Prod.fst = List.range s.cellCount → s.clearIdx = some 0 → 0 < s.cellCount →
    ∀ n, n ≤ s.cellCount → ∃ t, clearSteps n s = .next t ∧
      (∀ j, t.fb.read j = if j < n then some 0 else s.fb.read j) ∧
      (n < s.cellCount → t = { s with fb := t.fb, clearIdx := some n }) ∧
      (n = s.cellCount → t = { s with fb := t.fb, clearIdx := none, response := some ⟨.ok, 0⟩ })

/-- Whatever TICK, ENGINE and HOST turns fall between (RESET apart), a CLEAR stays unanswered until its last CLEAR step,
and that step answers OK with every cell from CLEAR_IDX on at 0; the host's words wait meanwhile. -/
def Obligations.ClearAnsweredByItsLastStep : Prop :=
  ∀ (s : State) (i : Nat) (turns : List Agent), Inv s → s.clearIdx = some i → .reset ∉ turns →
    turns.count .clear + 1 = s.cellCount - i →
    (∃ u, runAgents turns s = .next u ∧ u.clearIdx = some (s.cellCount - 1) ∧ u.response = none) ∧
    ∃ t, runAgents (turns ++ [.clear]) s = .next t ∧ t.clearIdx = none ∧ t.response = some ⟨.ok, 0⟩ ∧
      t.hostQueue = s.hostQueue ∧ ∀ j, i ≤ j → j < s.cellCount → t.fb.read j = some 0

/-- The FILL pseudo-instruction leaves every cell at its value. -/
def Obligations.FillWritesEveryCell : Prop :=
  ∀ (v : CellValue) (s : State), Inv s → s.lc = .constructed ∨ s.lc = .running →
    ∃ t, execAll (Pseudo.fill s.rowCount s.colCount v) s = .next t ∧
      ∀ j, t.fb.read j = if j < s.cellCount then some v else none

/-- WRITEDISPLAY is a no-op answered OK in every state but HALTED. -/
def Obligations.WritedisplayIsNoOp : Prop :=
  ∀ s : State, s.lc ≠ .halted → exec .writedisplay s = .next { s with response := some ⟨.ok, 0⟩ }

/-! ### The diagnostic reads -/

/-- RDRUNTIME, RDLATENCY and RDPERIOD answer their registers in every lifecycle state and write nothing. -/
def Obligations.CounterReads : Prop :=
  ∀ (s : State) (idx : BitVec 2),
    exec .rdruntime s = .next { s with response := some ⟨.ok, s.runtime⟩ } ∧
    exec .rdlatency s = .next { s with response := some ⟨.ok, s.latency⟩ } ∧
    ∃ p, s.ptable.get? idx.toNat = some p ∧
      exec (.rdperiod idx) s = .next { s with response := some ⟨.ok, p.setWidth 32⟩ }

/-- R193: the layout of RDSTATUS, field by field. -/
def Obligations.StatusWordLayout : Prop :=
  ∀ s : State, ∃ d : ResponseData, exec .rdstatus s = .next { s with response := some ⟨.ok, d⟩ } ∧
    d.extractLsb' 0 2 =
      (match s.lc with
        | .unconstructed => 0#2
        | .constructed => 1#2
        | .running => 2#2
        | .halted => 3#2) ∧
    d.getLsbD 2 = s.irqPending ∧ d.extractLsb' 3 5 = 0#5 ∧ d.extractLsb' 8 8 = s.diag ∧
    d.extractLsb' 16 6 = s.rows ∧ d.extractLsb' 22 7 = s.cols ∧ d.extractLsb' 29 3 = s.planes

/-- R195: the layout of RDCURSOR, field by field. -/
def Obligations.CursorWordLayout : Prop :=
  ∀ s : State, ∃ d : ResponseData, exec .rdcursor s = .next { s with response := some ⟨.ok, d⟩ } ∧
    d.extractLsb' 0 5 = s.curRow ∧ d.extractLsb' 5 3 = 0#3 ∧ d.extractLsb' 8 2 = s.curPlane ∧
    d.extractLsb' 10 2 = 0#2 ∧ d.extractLsb' 12 2 = s.slot ∧ d.extractLsb' 14 18 = 0#18

/-- R196: the layout of RDTABLES, field by field, for table lengths that fit their fields (as every run's do). -/
def Obligations.TablesWordLayout : Prop :=
  ∀ s : State, ∃ d : ResponseData, exec .rdtables s = .next { s with response := some ⟨.ok, d⟩ } ∧
    (s.rowPins.length ≤ 32 → (d.extractLsb' 0 6).toNat = s.rowPins.length) ∧ d.extractLsb' 6 2 = 0#2 ∧
    (s.colPins.length ≤ 256 → (d.extractLsb' 8 9).toNat = s.colPins.length) ∧ d.extractLsb' 17 7 = 0#7 ∧
    (∀ c, c < 4 → d.getLsbD (24 + c) = srWired s c) ∧ d.extractLsb' 28 4 = 0#4

/-! ### Lifecycle and access rights -/

/-- RESET, a CONSTRUCT in UNCONSTRUCTED and a BEGIN in CONSTRUCTED lead where the table of R227 says, and no other step
changes LC. That a halt is answered with its DIAG code as DATA follows 60_exceptions.md R206, against R82's sentence on
DATA (the model's reading, log 14). -/
def Obligations.LifecycleTransitions : Prop :=
  ∀ s t : State, step s = .next t →
    let decoded (i : Instr) : Prop :=
      (chooseTurn s).1 = .host ∧ ∃ w, s.hostQueue.head? = some w ∧ decodeCommand w = .ok i
    let halts (low high : Nat) : Prop :=
      t.lc = .halted ∧ low ≤ t.diag.toNat ∧ t.diag.toNat ≤ high ∧ t.response = some ⟨.errHalted, t.diag.setWidth 32⟩
    ((chooseTurn s).1 = .reset → t.lc = .unconstructed) ∧
    (∀ r c p, decoded (.construct r c p) → s.lc = .unconstructed →
      (t.lc = .constructed ∧ t.response = some ⟨.ok, 0⟩) ∨ halts 1 2) ∧
    (decoded .begin → s.lc = .constructed → (t.lc = .running ∧ t.response = some ⟨.ok, 0⟩) ∨ halts 3 7) ∧
    (t.lc ≠ s.lc →
      (chooseTurn s).1 = .reset ∨ (s.lc = .unconstructed ∧ ∃ r c p, decoded (.construct r c p)) ∨
        (s.lc = .constructed ∧ decoded .begin))

/-- R54: geometry, tables and periods are never written in RUNNING or HALTED, RESET apart. -/
def Obligations.ConfigurationClosedAfterBegin : Prop :=
  ∀ s t : State, step s = .next t → s.lc = .running ∨ s.lc = .halted → (chooseTurn s).1 ≠ .reset →
    t.rows = s.rows ∧ t.cols = s.cols ∧ t.planes = s.planes ∧ t.rowPins = s.rowPins ∧ t.colPins = s.colPins ∧
    t.srPins = s.srPins ∧ t.base = s.base ∧ t.ptable = s.ptable

/-- What each agent may write: TICK, CLEAR and ENGINE by their lists; HOST never NOW, RUNTIME or LATENCY, and the
period table, the cursor, the timer, the lines and TRACE only by BEGIN (a halt also clears TEN and IRQ_PENDING). -/
def Obligations.AgentWriteAccess : Prop :=
  ∀ s t : State,
    (runAgent .tick s = .next t → t = { s with now := t.now, count := t.count, irqPending := t.irqPending }) ∧
    (runAgent .clear s = .next t → t = { s with fb := t.fb, clearIdx := t.clearIdx, response := t.response }) ∧
    (runAgent .engine s = .next t →
      t = { s with
        irqPending := false, curRow := t.curRow, curPlane := t.curPlane, slot := t.slot, period := t.period,
        lastStart := t.lastStart, runtime := t.runtime, latency := t.latency, lines := t.lines, trace := t.trace,
        draws := { s.draws with gpio := t.draws.gpio, runtime := t.draws.runtime } }) ∧
    (∀ w, acceptWord w s = .next t →
      t.now = s.now ∧ t.runtime = s.runtime ∧ t.latency = s.latency ∧ t.hostQueue = s.hostQueue ∧
      t.schedule = s.schedule ∧ t.round = s.round ∧
      (decodeCommand w ≠ .ok .begin →
        t.ptable = s.ptable ∧ t.curRow = s.curRow ∧ t.curPlane = s.curPlane ∧ t.slot = s.slot ∧
        t.count = s.count ∧ t.period = s.period ∧ t.lastStart = s.lastStart ∧ t.lines = s.lines ∧
        t.trace = s.trace ∧
        (t.lc ≠ .halted ∨ s.lc = .halted → t.ten = s.ten ∧ t.irqPending = s.irqPending)))

/-! ### The timer -/

/-- R215, R216, R218: one TICK. -/
def Obligations.TickCounts : Prop :=
  ∀ s : State,
    (s.ten = false → runAgent .tick s = .next { s with now := s.now + 1 }) ∧
    (s.ten = true → s.period ≤ s.count + 1 →
      runAgent .tick s = .next { s with now := s.now + 1, count := 0, irqPending := true }) ∧
    (s.ten = true → s.count + 1 < s.period →
      runAgent .tick s = .next { s with now := s.now + 1, count := s.count + 1 })

/-- R217: after a period is set and COUNT is 0, the request comes with the TICK that completes the period, not
before. -/
def Obligations.ExpiryAfterPeriodTicks : Prop :=
  ∀ s : State, s.ten = true → s.count = 0 → 1 ≤ s.period.toNat →
    (∀ n, n < s.period.toNat →
      ticks n s = { s with now := s.now + BitVec.ofNat 32 n, count := BitVec.ofNat 32 n }) ∧
    ticks s.period.toNat s = { s with now := s.now + s.period, count := 0, irqPending := true }

/-- Every step keeps the prompt-dispatch timing. -/
def Obligations.StepKeepsPromptTiming : Prop :=
  ∀ s t : State, Inv s → PromptTiming s → step s = .next t → PromptTiming t

/-- With PROMPT_DISPATCH the time between two invocation starts is the weight of the bit-plane the first one showed:
the latency recorded is BASE · 2^b for the bit-plane b = SLOT of the previous invocation, and the invocation leaves its
own bit-plane in SLOT. -/
def Obligations.PromptLatencyIsPlaneWeight : Prop :=
  ∀ s : State, Inv s → PromptTiming s → s.params.promptDispatch = true → agentEnabled .engine s = true →
    ∃ t, runAgent .engine s = .next t ∧
      t.latency.toNat = s.base.toNat * 2 ^ s.slot.toNat ∧ t.lastStart = s.now ∧ t.slot = s.curPlane

/-! ### The refresh engine -/

/-- One invocation's registers: dispatch, latency, period and slot, cursor, drawn runtime (the form of
the draw is the model's, log 6); COUNT and FB are kept. -/
def Obligations.EngineRegisters : Prop :=
  ∀ s : State, Inv s → s.lc = .running →
    ∃ t, runAgent .engine s = .next t ∧
      t = { s with
        irqPending := false, latency := s.now - s.lastStart, lastStart := s.now,
        period := if s.curRow = 0 then (s.ptable.at s.curPlane).setWidth 32 else s.period,
        slot := if s.curRow = 0 then s.curPlane else s.slot,
        curRow := if s.curRow.toNat + 1 = s.rows.toNat then 0 else s.curRow + 1,
        curPlane := if s.curRow.toNat + 1 = s.rows.toNat then s.curPlane + 1 else s.curPlane,
        runtime := Config.runtimeDraw s.draws.runtime,
        draws := { s.draws with runtime := s.draws.runtime + 1 },
        lines := t.lines, trace := t.trace }

/-- What an invocation emits (the old row off, the planes ascending, the new row on), and how much (R155). -/
def Obligations.EngineEmitsItsEvents : Prop :=
  ∀ s t : State, Inv s → s.lc = .running → runAgent .engine s = .next t →
    t.trace = s.trace ++ invocationWords s ∧
    t.trace.length = s.trace.length + 2 +
      ((List.range s.planes.toNat).map fun c =>
        if srWired s c then 2 + 3 * s.cols.toNat else s.cols.toNat).sum

/-- From cursor (0, b), ROWS invocations lead to (0, b + 1) and 4 · ROWS back to (0, b). -/
def Obligations.CycleClosure : Prop :=
  ∀ s : State, Inv s → s.lc = .running → s.curRow = 0 →
    (∃ t, invocations s.rowCount s = .next t ∧ t.curRow = 0 ∧ t.curPlane = s.curPlane + 1 ∧ t.slot = s.curPlane) ∧
    (∃ t, invocations (s.rowCount * 4) s = .next t ∧ t.curRow = 0 ∧ t.curPlane = s.curPlane ∧
      t.slot = s.curPlane + 3)

/-- Every step keeps the one-row property at every point of TRACE. -/
def Obligations.StepKeepsOneRowOn : Prop :=
  ∀ s t : State, Inv s → OneRowOn s → step s = .next t → OneRowOn t

/-- After an invocation exactly the row under its cursor is on. -/
def Obligations.EngineLightsExactlyItsRow : Prop :=
  ∀ s t : State, Inv s → OneRowOn s → s.lc = .running → RowLinesApart s → runAgent .engine s = .next t →
    ∀ (r : Nat) (l : LineId), s.rowPins[r]? = some l →
      (lastDrive l t.trace = some false ↔ r = s.curRow.toNat)

/-- After an invocation each column line of a direct-wired plane with its own columns carries its cell's bit. -/
def Obligations.ColumnLinesShowTheirCells : Prop :=
  ∀ (s : State) (c : Nat), Inv s → s.lc = .running → c < s.planeCount → direct s c = true →
    s.colPins.length = s.colCount * s.planeCount ∨ s.planeCount = 1 →
    s.colPins.Nodup → (∀ l ∈ s.colPins, l ∉ s.rowPins ∧ l ∉ srLines s) →
    ∃ t, runAgent .engine s = .next t ∧
      ∀ j, j < s.colCount → ∃ l, s.colPins[c * s.colCount + j]? = some l ∧
        lineAt t l = ⟨.output, .ofBit (shownBit s c j)⟩

/-- With shared column lines the highest direct-wired plane's bit remains. -/
def Obligations.SharedColumnsShowHighestPlane : Prop :=
  ∀ (s : State) (c : Nat), Inv s → s.lc = .running → 1 < s.planeCount → s.colPins.length = s.colCount →
    c < s.planeCount → direct s c = true → (∀ d, c < d → d < s.planeCount → direct s d = false) →
    s.colPins.Nodup → (∀ l ∈ s.colPins, l ∉ s.rowPins ∧ l ∉ srLines s) →
    ∃ t, runAgent .engine s = .next t ∧
      ∀ j, j < s.colCount → ∃ l, s.colPins[j]? = some l ∧
        lineAt t l = ⟨.output, .ofBit (shownBit s c j)⟩

/-- With every cell 0, TICK and ENGINE steps never drive a column line or a data line to 1, unless the line has a
second role as row, clock or latch line. -/
def Obligations.ClearedDisplayStaysDark : Prop :=
  ∀ s t : State, Inv s → s.lc = .running → (∀ p ∈ s.fb, p.2 = 0) →
    AgentSteps (fun a => a = .tick ∨ a = .engine) s t →
    ∃ events, t.trace = s.trace ++ events ∧
      ∀ l ∈ s.colPins ++ (wiredTriples s).map SrTriple.data,
        l ∉ s.rowPins ++ (wiredTriples s).map SrTriple.clock ++ (wiredTriples s).map SrTriple.latch →
        hiWord l ∉ events

/-- R126, R127: a plane's level is the weighted sum of its bit-planes, and the time its column is on in a cycle is
BASE times the level. -/
def Obligations.LevelIsWeightedSum : Prop :=
  ∀ (v : CellValue) (c : Nat), c < 4 →
    (∀ b, b < 4 → planeBit v c b = decide (v.toNat / 2 ^ (4 * c + b) % 2 = 1)) ∧
    (intensity v c).toNat = ((List.range 4).map fun b => if planeBit v c b then 2 ^ b else 0).sum ∧
    ∀ base : BitVec 24,
      ((List.range 4).map fun b =>
        if planeBit v c b then ((periodTable base).at (BitVec.ofNat 2 b)).toNat else 0).sum =
      base.toNat * (intensity v c).toNat

/-! ### GPIO and the shift register -/

/-- GPIO_CFG_OUT makes its line an output, gives it a drawn level if it had none (the form of the draw is the model's,
log 5), and appends its event. -/
def Obligations.GpioConfigures : Prop :=
  ∀ (l : LineId) (s : State), l ≠ noneLine →
    ∃ t, exec (.gpioCfgOut l) s = .next t ∧
      t = { s with
        lines := t.lines, trace := s.trace ++ [cfgWord l], draws := { s.draws with gpio := t.draws.gpio } } ∧
      (lineAt t l).mode = .output ∧ (lineAt t l).level ≠ .z ∧
      ((lineAt s l).level ≠ .z → (lineAt t l).level = (lineAt s l).level ∧ t.draws = s.draws) ∧
      ((lineAt s l).level = .z →
        (lineAt t l).level = .ofBit (Config.gpioCfgDraw s.draws.gpio) ∧ t.draws.gpio = s.draws.gpio + 1) ∧
      ∀ m, m ≠ l → lineAt t m = lineAt s m

/-- GPIO_DRIVE_LOW and GPIO_DRIVE_HIGH on an OUTPUT line set its level and append their event. -/
def Obligations.GpioDrives : Prop :=
  ∀ (l : LineId) (s : State), l ≠ noneLine → (lineAt s l).mode = .output →
    (∃ t, exec (.gpioDriveLow l) s = .next t ∧
      t = { s with lines := t.lines, trace := s.trace ++ [loWord l] } ∧
      lineAt t l = ⟨.output, .low⟩ ∧ ∀ m, m ≠ l → lineAt t m = lineAt s m) ∧
    (∃ t, exec (.gpioDriveHigh l) s = .next t ∧
      t = { s with lines := t.lines, trace := s.trace ++ [hiWord l] } ∧
      lineAt t l = ⟨.output, .high⟩ ∧ ∀ m, m ≠ l → lineAt t m = lineAt s m)

/-- A drive of an UNCONFIGURED line, which no run of LMX performs, stops with the fault of that name (R115 allows
it; the model's choice, log 10). -/
def Obligations.DriveOfUnconfiguredLineFaults : Prop :=
  ∀ (l : LineId) (s : State), l ≠ noneLine → (lineAt s l).mode = .unconfigured →
    exec (.gpioDriveLow l) s = .fault (.driveUnconfigured l) ∧
    exec (.gpioDriveHigh l) s = .fault (.driveUnconfigured l)

/-- Every step keeps: mode and level of every line are those its events in TRACE leave. -/
def Obligations.StepKeepsLevelsFollowTrace : Prop :=
  ∀ s t : State, LevelsFollowTrace s → step s = .next t → LevelsFollowTrace t

/-- R117, R118, R120: the events of SR_LOAD and their number. -/
def Obligations.SrLoadEvents : Prop :=
  ∀ (o : SrOrder) (t : SrTriple) (bits : List Bool),
    (srLoadOps o t bits).map eventWord = srLoadWords o t bits ∧
    (srLoadOps o t bits).length = 2 + 3 * bits.length

/-- An external latched shift register with as many stages as bits (the spec's observation helper R121, PRESUMED
there, log 16) presents the
bits after SR_LOAD, the first one shifted furthest from the input; until the commit its outputs hold. -/
def Obligations.ShiftRegisterPresentsBits : Prop :=
  ∀ (o : SrOrder) (t : SrTriple) (bits : List Bool) (q : ShiftRegister),
    t.data ≠ t.clock → t.data ≠ t.latch → t.clock ≠ t.latch →
    q.clockLevel = false → q.stages.length = bits.length →
    ((srLoadOps o t bits).foldl (ShiftRegister.see t) q).outputs =
      (if o = .asc then bits.reverse else bits) ∧
    ((srLoadOps o t bits).dropLast.foldl (ShiftRegister.see t) q).outputs = q.outputs
end

