-- ==== Sys2Proof/Laws/Map.lean ====
section
/-! SUPPORT. Laws of the sparse maps: read after write, and the canonical form. -/

namespace Sys2Proof.Machine

theorem lookupKey_insertKey_same {α : Type} (k : Nat) (v : α) (m : List (Nat × α)) :
    lookupKey k (insertKey k v m) = some v := by
  induction m with
  | nil => simp [insertKey, lookupKey]
  | cons p rest ih =>
    obtain ⟨k', v'⟩ := p
    simp only [insertKey]
    split
    · simp [lookupKey]
    · split
      · simp [lookupKey]
      · rename_i h
        simp [lookupKey, h, ih]

theorem lookupKey_insertKey_ne {α : Type} {k j : Nat} (h : j ≠ k) (v : α) (m : List (Nat × α)) :
    lookupKey j (insertKey k v m) = lookupKey j m := by
  induction m with
  | nil => simp [insertKey, lookupKey, h]
  | cons p rest ih =>
    obtain ⟨k', v'⟩ := p
    simp only [insertKey]
    split
    · simp [lookupKey, h]
    · split
      · rename_i hk
        subst hk
        simp [lookupKey, h]
      · simp [lookupKey, ih]

theorem lookupKey_insertKey {α : Type} (j k : Nat) (v : α) (m : List (Nat × α)) :
    lookupKey j (insertKey k v m) = if j = k then some v else lookupKey j m := by
  split
  · rename_i h
    rw [h, lookupKey_insertKey_same]
  · rename_i h
    exact lookupKey_insertKey_ne h v m

/-- A key is listed exactly when it is one of the keys. -/
theorem lookupKey_isSome_iff {α : Type} (k : Nat) (m : List (Nat × α)) :
    (lookupKey k m).isSome = true ↔ k ∈ m.map Prod.fst := by
  induction m with
  | nil => simp [lookupKey]
  | cons p rest ih =>
    obtain ⟨k', v'⟩ := p
    simp only [lookupKey]
    split
    · rename_i h
      simp [h]
    · rename_i h
      simp [ih, h]

/-- The keys after an insertion. -/
theorem mem_keys_insertKey {α : Type} (j k : Nat) (v : α) (m : List (Nat × α)) :
    j ∈ (insertKey k v m).map Prod.fst ↔ j = k ∨ j ∈ m.map Prod.fst := by
  induction m with
  | nil => simp [insertKey]
  | cons p rest ih =>
    obtain ⟨k', v'⟩ := p
    simp only [insertKey]
    split
    · simp
    · split
      · rename_i h
        subst h
        simp
      · simp only [List.map_cons, List.mem_cons, ih]
        tauto

/-- The entries after an insertion. -/
theorem mem_insertKey {α : Type} {p : Nat × α} {k : Nat} {v : α} {m : List (Nat × α)}
    (h : p ∈ insertKey k v m) : p = (k, v) ∨ p ∈ m := by
  induction m with
  | nil => simpa [insertKey] using h
  | cons q rest ih =>
    obtain ⟨k', v'⟩ := q
    simp only [insertKey] at h
    split at h
    · simpa using h
    · split at h
      · rcases List.mem_cons.mp h with h | h
        · exact .inl h
        · exact .inr (List.mem_cons_of_mem _ h)
      · rcases List.mem_cons.mp h with h | h
        · exact .inr (h ▸ List.mem_cons_self)
        · exact (ih h).imp id (List.mem_cons_of_mem _)

/-- Insertion keeps the canonical form. -/
theorem risingKeys_insertKey {α : Type} (k : Nat) (v : α) {m : List (Nat × α)} (h : risingKeys m) :
    risingKeys (insertKey k v m) := by
  induction m with
  | nil => simp [risingKeys, insertKey]
  | cons p rest ih =>
    obtain ⟨k', v'⟩ := p
    have hr : risingKeys rest := (List.pairwise_cons.mp h).2
    have hk : ∀ j ∈ rest.map Prod.fst, k' < j := (List.pairwise_cons.mp h).1
    simp only [insertKey]
    split
    · rename_i hlt
      refine List.pairwise_cons.mpr ⟨fun j hj => ?_, h⟩
      rcases List.mem_cons.mp hj with hj | hj
      · exact hj ▸ hlt
      · exact hlt.trans (hk j hj)
    · split
      · rename_i heq
        exact List.pairwise_cons.mpr ⟨fun j hj => heq ▸ hk j hj, hr⟩
      · rename_i hlt heq
        refine List.pairwise_cons.mpr ⟨fun j hj => ?_, ih hr⟩
        rcases (mem_keys_insertKey j k v rest).mp hj with hj | hj
        · omega
        · exact hk j hj

/-- Replacing a listed value keeps the keys. -/
theorem keys_insertKey_of_mem {α : Type} {k : Nat} (v : α) {m : List (Nat × α)} (hm : risingKeys m)
    (h : k ∈ m.map Prod.fst) : (insertKey k v m).map Prod.fst = m.map Prod.fst := by
  induction m with
  | nil => simp at h
  | cons p rest ih =>
    obtain ⟨k', v'⟩ := p
    have hr : risingKeys rest := (List.pairwise_cons.mp hm).2
    have hk : ∀ j ∈ rest.map Prod.fst, k' < j := (List.pairwise_cons.mp hm).1
    simp only [insertKey]
    rcases List.mem_cons.mp h with h | h
    · simp only at h
      subst h
      simp
    · have hlt := hk k h
      rw [if_neg (by omega), if_neg (by omega)]
      simp [ih hr h]

/-- Keys 0 .. n-1 are in canonical form. -/
theorem risingKeys_of_keys_range {α : Type} {m : List (Nat × α)} {n : Nat}
    (h : m.map Prod.fst = List.range n) : risingKeys m := by
  rw [risingKeys, h]
  exact List.pairwise_lt_range

/-- Every cell operation keeps the canonical form of the frame buffer. -/
theorem Memory.wf_write {m m' : Memory} {i : Nat} {v : CellValue} (h : m.wf) (hw : m.write i v = some m') :
    m'.wf := by
  simp only [Memory.write] at hw
  split at hw
  · cases hw
    exact risingKeys_insertKey i v h
  · cases hw

theorem Memory.keys_drawn (n first : Nat) : (Memory.drawn n first).map Prod.fst = List.range n := by
  simp [Memory.drawn, Function.comp_def]

theorem Memory.wf_drawn (n first : Nat) : (Memory.drawn n first).wf :=
  risingKeys_of_keys_range (Memory.keys_drawn n first)

theorem Memory.wf_reset : State.reset.fb.wf := by decide

/-- A write succeeds exactly on a listed cell. -/
theorem Memory.write_eq_some {m : Memory} {i : Nat} (v : CellValue) (h : i ∈ m.map Prod.fst) :
    m.write i v = some (insertKey i v m) := by
  rw [Memory.write, if_pos ((lookupKey_isSome_iff i m).mpr h)]

theorem Memory.read_write {m m' : Memory} {i : Nat} {v : CellValue} (hw : m.write i v = some m') (j : Nat) :
    m'.read j = if j = i then some v else m.read j := by
  simp only [Memory.write] at hw
  split at hw
  · cases hw
    exact lookupKey_insertKey j i v m
  · cases hw

theorem Memory.keys_write {m m' : Memory} {i : Nat} {v : CellValue} (h : m.wf) (hw : m.write i v = some m') :
    m'.map Prod.fst = m.map Prod.fst := by
  simp only [Memory.write] at hw
  split at hw
  · rename_i hs
    cases hw
    exact keys_insertKey_of_mem v h ((lookupKey_isSome_iff i m).mp hs)
  · cases hw

end Sys2Proof.Machine
end

