-- ==== Sys2Proof/Laws/State.lean ====
section
/-! SUPPORT. The fields of a state after each named update: one lemma per field, true by rfl, so that no proof unfolds
an update. The updates with a single caller are given by one equation each, at the end. -/

namespace Sys2Proof.Machine

/-- `FB_WORDS` ≥ 1 (92_eei_decisions.md). -/
@[simp] theorem fbWords_pos (p : Params) : 1 ≤ p.fbWords := Nat.succ_le_succ (Nat.zero_le _)

/-! ### respond -/

@[simp] theorem respond_lc (st : Status) (d : ResponseData) (s : State) : (respond st d s).lc = s.lc := rfl
@[simp] theorem respond_diag (st : Status) (d : ResponseData) (s : State) : (respond st d s).diag = s.diag := rfl
@[simp] theorem respond_rows (st : Status) (d : ResponseData) (s : State) : (respond st d s).rows = s.rows := rfl
@[simp] theorem respond_cols (st : Status) (d : ResponseData) (s : State) : (respond st d s).cols = s.cols := rfl
@[simp] theorem respond_planes (st : Status) (d : ResponseData) (s : State) :
    (respond st d s).planes = s.planes := rfl
@[simp] theorem respond_rowPins (st : Status) (d : ResponseData) (s : State) :
    (respond st d s).rowPins = s.rowPins := rfl
@[simp] theorem respond_colPins (st : Status) (d : ResponseData) (s : State) :
    (respond st d s).colPins = s.colPins := rfl
@[simp] theorem respond_srPins (st : Status) (d : ResponseData) (s : State) :
    (respond st d s).srPins = s.srPins := rfl
@[simp] theorem respond_base (st : Status) (d : ResponseData) (s : State) : (respond st d s).base = s.base := rfl
@[simp] theorem respond_ptable (st : Status) (d : ResponseData) (s : State) :
    (respond st d s).ptable = s.ptable := rfl
@[simp] theorem respond_curRow (st : Status) (d : ResponseData) (s : State) :
    (respond st d s).curRow = s.curRow := rfl
@[simp] theorem respond_curPlane (st : Status) (d : ResponseData) (s : State) :
    (respond st d s).curPlane = s.curPlane := rfl
@[simp] theorem respond_slot (st : Status) (d : ResponseData) (s : State) : (respond st d s).slot = s.slot := rfl
@[simp] theorem respond_now (st : Status) (d : ResponseData) (s : State) : (respond st d s).now = s.now := rfl
@[simp] theorem respond_count (st : Status) (d : ResponseData) (s : State) : (respond st d s).count = s.count := rfl
@[simp] theorem respond_period (st : Status) (d : ResponseData) (s : State) :
    (respond st d s).period = s.period := rfl
@[simp] theorem respond_ten (st : Status) (d : ResponseData) (s : State) : (respond st d s).ten = s.ten := rfl
@[simp] theorem respond_irqPending (st : Status) (d : ResponseData) (s : State) :
    (respond st d s).irqPending = s.irqPending := rfl
@[simp] theorem respond_lastStart (st : Status) (d : ResponseData) (s : State) :
    (respond st d s).lastStart = s.lastStart := rfl
@[simp] theorem respond_runtime (st : Status) (d : ResponseData) (s : State) :
    (respond st d s).runtime = s.runtime := rfl
@[simp] theorem respond_latency (st : Status) (d : ResponseData) (s : State) :
    (respond st d s).latency = s.latency := rfl
@[simp] theorem respond_fb (st : Status) (d : ResponseData) (s : State) : (respond st d s).fb = s.fb := rfl
@[simp] theorem respond_clearIdx (st : Status) (d : ResponseData) (s : State) :
    (respond st d s).clearIdx = s.clearIdx := rfl
@[simp] theorem respond_lines (st : Status) (d : ResponseData) (s : State) : (respond st d s).lines = s.lines := rfl
@[simp] theorem respond_trace (st : Status) (d : ResponseData) (s : State) : (respond st d s).trace = s.trace := rfl
@[simp] theorem respond_response (st : Status) (d : ResponseData) (s : State) :
    (respond st d s).response = some ⟨st, d⟩ := rfl
@[simp] theorem respond_hostQueue (st : Status) (d : ResponseData) (s : State) :
    (respond st d s).hostQueue = s.hostQueue := rfl
@[simp] theorem respond_schedule (st : Status) (d : ResponseData) (s : State) :
    (respond st d s).schedule = s.schedule := rfl
@[simp] theorem respond_round (st : Status) (d : ResponseData) (s : State) :
    (respond st d s).round = s.round := rfl
@[simp] theorem respond_draws (st : Status) (d : ResponseData) (s : State) : (respond st d s).draws = s.draws := rfl
@[simp] theorem respond_params (st : Status) (d : ResponseData) (s : State) :
    (respond st d s).params = s.params := rfl

/-! ### halt -/

@[simp] theorem halt_lc (d : HaltCause) (s : State) : (halt d s).lc = .halted := rfl
@[simp] theorem halt_diag (d : HaltCause) (s : State) : (halt d s).diag = d.code := rfl
@[simp] theorem halt_rows (d : HaltCause) (s : State) : (halt d s).rows = s.rows := rfl
@[simp] theorem halt_cols (d : HaltCause) (s : State) : (halt d s).cols = s.cols := rfl
@[simp] theorem halt_planes (d : HaltCause) (s : State) : (halt d s).planes = s.planes := rfl
@[simp] theorem halt_rowPins (d : HaltCause) (s : State) : (halt d s).rowPins = s.rowPins := rfl
@[simp] theorem halt_colPins (d : HaltCause) (s : State) : (halt d s).colPins = s.colPins := rfl
@[simp] theorem halt_srPins (d : HaltCause) (s : State) : (halt d s).srPins = s.srPins := rfl
@[simp] theorem halt_base (d : HaltCause) (s : State) : (halt d s).base = s.base := rfl
@[simp] theorem halt_ptable (d : HaltCause) (s : State) : (halt d s).ptable = s.ptable := rfl
@[simp] theorem halt_curRow (d : HaltCause) (s : State) : (halt d s).curRow = s.curRow := rfl
@[simp] theorem halt_curPlane (d : HaltCause) (s : State) : (halt d s).curPlane = s.curPlane := rfl
@[simp] theorem halt_slot (d : HaltCause) (s : State) : (halt d s).slot = s.slot := rfl
@[simp] theorem halt_now (d : HaltCause) (s : State) : (halt d s).now = s.now := rfl
@[simp] theorem halt_count (d : HaltCause) (s : State) : (halt d s).count = s.count := rfl
@[simp] theorem halt_period (d : HaltCause) (s : State) : (halt d s).period = s.period := rfl
@[simp] theorem halt_ten (d : HaltCause) (s : State) : (halt d s).ten = false := rfl
@[simp] theorem halt_irqPending (d : HaltCause) (s : State) : (halt d s).irqPending = false := rfl
@[simp] theorem halt_lastStart (d : HaltCause) (s : State) : (halt d s).lastStart = s.lastStart := rfl
@[simp] theorem halt_runtime (d : HaltCause) (s : State) : (halt d s).runtime = s.runtime := rfl
@[simp] theorem halt_latency (d : HaltCause) (s : State) : (halt d s).latency = s.latency := rfl
@[simp] theorem halt_fb (d : HaltCause) (s : State) : (halt d s).fb = s.fb := rfl
@[simp] theorem halt_clearIdx (d : HaltCause) (s : State) : (halt d s).clearIdx = s.clearIdx := rfl
@[simp] theorem halt_lines (d : HaltCause) (s : State) : (halt d s).lines = s.lines := rfl
@[simp] theorem halt_trace (d : HaltCause) (s : State) : (halt d s).trace = s.trace := rfl
@[simp] theorem halt_response (d : HaltCause) (s : State) :
    (halt d s).response = some ⟨.errHalted, d.code.setWidth 32⟩ := rfl
@[simp] theorem halt_hostQueue (d : HaltCause) (s : State) : (halt d s).hostQueue = s.hostQueue := rfl
@[simp] theorem halt_schedule (d : HaltCause) (s : State) : (halt d s).schedule = s.schedule := rfl
@[simp] theorem halt_round (d : HaltCause) (s : State) : (halt d s).round = s.round := rfl
@[simp] theorem halt_draws (d : HaltCause) (s : State) : (halt d s).draws = s.draws := rfl
@[simp] theorem halt_params (d : HaltCause) (s : State) : (halt d s).params = s.params := rfl

/-! ### setOutput -/

@[simp] theorem setOutput_lc (l : LineId) (v : Level) (s : State) : (setOutput l v s).lc = s.lc := rfl
@[simp] theorem setOutput_diag (l : LineId) (v : Level) (s : State) : (setOutput l v s).diag = s.diag := rfl
@[simp] theorem setOutput_rows (l : LineId) (v : Level) (s : State) : (setOutput l v s).rows = s.rows := rfl
@[simp] theorem setOutput_cols (l : LineId) (v : Level) (s : State) : (setOutput l v s).cols = s.cols := rfl
@[simp] theorem setOutput_planes (l : LineId) (v : Level) (s : State) : (setOutput l v s).planes = s.planes := rfl
@[simp] theorem setOutput_rowPins (l : LineId) (v : Level) (s : State) : (setOutput l v s).rowPins = s.rowPins := rfl
@[simp] theorem setOutput_colPins (l : LineId) (v : Level) (s : State) : (setOutput l v s).colPins = s.colPins := rfl
@[simp] theorem setOutput_srPins (l : LineId) (v : Level) (s : State) : (setOutput l v s).srPins = s.srPins := rfl
@[simp] theorem setOutput_base (l : LineId) (v : Level) (s : State) : (setOutput l v s).base = s.base := rfl
@[simp] theorem setOutput_ptable (l : LineId) (v : Level) (s : State) : (setOutput l v s).ptable = s.ptable := rfl
@[simp] theorem setOutput_curRow (l : LineId) (v : Level) (s : State) : (setOutput l v s).curRow = s.curRow := rfl
@[simp] theorem setOutput_curPlane (l : LineId) (v : Level) (s : State) :
    (setOutput l v s).curPlane = s.curPlane := rfl
@[simp] theorem setOutput_slot (l : LineId) (v : Level) (s : State) : (setOutput l v s).slot = s.slot := rfl
@[simp] theorem setOutput_now (l : LineId) (v : Level) (s : State) : (setOutput l v s).now = s.now := rfl
@[simp] theorem setOutput_count (l : LineId) (v : Level) (s : State) : (setOutput l v s).count = s.count := rfl
@[simp] theorem setOutput_period (l : LineId) (v : Level) (s : State) : (setOutput l v s).period = s.period := rfl
@[simp] theorem setOutput_ten (l : LineId) (v : Level) (s : State) : (setOutput l v s).ten = s.ten := rfl
@[simp] theorem setOutput_irqPending (l : LineId) (v : Level) (s : State) :
    (setOutput l v s).irqPending = s.irqPending := rfl
@[simp] theorem setOutput_lastStart (l : LineId) (v : Level) (s : State) :
    (setOutput l v s).lastStart = s.lastStart := rfl
@[simp] theorem setOutput_runtime (l : LineId) (v : Level) (s : State) : (setOutput l v s).runtime = s.runtime := rfl
@[simp] theorem setOutput_latency (l : LineId) (v : Level) (s : State) : (setOutput l v s).latency = s.latency := rfl
@[simp] theorem setOutput_fb (l : LineId) (v : Level) (s : State) : (setOutput l v s).fb = s.fb := rfl
@[simp] theorem setOutput_clearIdx (l : LineId) (v : Level) (s : State) :
    (setOutput l v s).clearIdx = s.clearIdx := rfl
@[simp] theorem setOutput_lines (l : LineId) (v : Level) (s : State) :
    (setOutput l v s).lines = insertKey l.toNat ⟨.output, v⟩ s.lines := rfl
@[simp] theorem setOutput_trace (l : LineId) (v : Level) (s : State) : (setOutput l v s).trace = s.trace := rfl
@[simp] theorem setOutput_response (l : LineId) (v : Level) (s : State) :
    (setOutput l v s).response = s.response := rfl
@[simp] theorem setOutput_hostQueue (l : LineId) (v : Level) (s : State) :
    (setOutput l v s).hostQueue = s.hostQueue := rfl
@[simp] theorem setOutput_schedule (l : LineId) (v : Level) (s : State) :
    (setOutput l v s).schedule = s.schedule := rfl
@[simp] theorem setOutput_round (l : LineId) (v : Level) (s : State) :
    (setOutput l v s).round = s.round := rfl
@[simp] theorem setOutput_draws (l : LineId) (v : Level) (s : State) : (setOutput l v s).draws = s.draws := rfl
@[simp] theorem setOutput_params (l : LineId) (v : Level) (s : State) : (setOutput l v s).params = s.params := rfl

/-! ### appendTrace -/

@[simp] theorem appendTrace_lc (e : EventWord) (s : State) : (appendTrace e s).lc = s.lc := rfl
@[simp] theorem appendTrace_diag (e : EventWord) (s : State) : (appendTrace e s).diag = s.diag := rfl
@[simp] theorem appendTrace_rows (e : EventWord) (s : State) : (appendTrace e s).rows = s.rows := rfl
@[simp] theorem appendTrace_cols (e : EventWord) (s : State) : (appendTrace e s).cols = s.cols := rfl
@[simp] theorem appendTrace_planes (e : EventWord) (s : State) : (appendTrace e s).planes = s.planes := rfl
@[simp] theorem appendTrace_rowPins (e : EventWord) (s : State) : (appendTrace e s).rowPins = s.rowPins := rfl
@[simp] theorem appendTrace_colPins (e : EventWord) (s : State) : (appendTrace e s).colPins = s.colPins := rfl
@[simp] theorem appendTrace_srPins (e : EventWord) (s : State) : (appendTrace e s).srPins = s.srPins := rfl
@[simp] theorem appendTrace_base (e : EventWord) (s : State) : (appendTrace e s).base = s.base := rfl
@[simp] theorem appendTrace_ptable (e : EventWord) (s : State) : (appendTrace e s).ptable = s.ptable := rfl
@[simp] theorem appendTrace_curRow (e : EventWord) (s : State) : (appendTrace e s).curRow = s.curRow := rfl
@[simp] theorem appendTrace_curPlane (e : EventWord) (s : State) : (appendTrace e s).curPlane = s.curPlane := rfl
@[simp] theorem appendTrace_slot (e : EventWord) (s : State) : (appendTrace e s).slot = s.slot := rfl
@[simp] theorem appendTrace_now (e : EventWord) (s : State) : (appendTrace e s).now = s.now := rfl
@[simp] theorem appendTrace_count (e : EventWord) (s : State) : (appendTrace e s).count = s.count := rfl
@[simp] theorem appendTrace_period (e : EventWord) (s : State) : (appendTrace e s).period = s.period := rfl
@[simp] theorem appendTrace_ten (e : EventWord) (s : State) : (appendTrace e s).ten = s.ten := rfl
@[simp] theorem appendTrace_irqPending (e : EventWord) (s : State) :
    (appendTrace e s).irqPending = s.irqPending := rfl
@[simp] theorem appendTrace_lastStart (e : EventWord) (s : State) : (appendTrace e s).lastStart = s.lastStart := rfl
@[simp] theorem appendTrace_runtime (e : EventWord) (s : State) : (appendTrace e s).runtime = s.runtime := rfl
@[simp] theorem appendTrace_latency (e : EventWord) (s : State) : (appendTrace e s).latency = s.latency := rfl
@[simp] theorem appendTrace_fb (e : EventWord) (s : State) : (appendTrace e s).fb = s.fb := rfl
@[simp] theorem appendTrace_clearIdx (e : EventWord) (s : State) : (appendTrace e s).clearIdx = s.clearIdx := rfl
@[simp] theorem appendTrace_lines (e : EventWord) (s : State) : (appendTrace e s).lines = s.lines := rfl
@[simp] theorem appendTrace_trace (e : EventWord) (s : State) : (appendTrace e s).trace = s.trace ++ [e] := rfl
@[simp] theorem appendTrace_response (e : EventWord) (s : State) : (appendTrace e s).response = s.response := rfl
@[simp] theorem appendTrace_hostQueue (e : EventWord) (s : State) : (appendTrace e s).hostQueue = s.hostQueue := rfl
@[simp] theorem appendTrace_schedule (e : EventWord) (s : State) : (appendTrace e s).schedule = s.schedule := rfl
@[simp] theorem appendTrace_round (e : EventWord) (s : State) : (appendTrace e s).round = s.round := rfl
@[simp] theorem appendTrace_draws (e : EventWord) (s : State) : (appendTrace e s).draws = s.draws := rfl
@[simp] theorem appendTrace_params (e : EventWord) (s : State) : (appendTrace e s).params = s.params := rfl

/-! ### allocate -/

@[simp] theorem allocate_lc (r : BitVec 6) (c : BitVec 7) (p : BitVec 3) (s : State) :
    (allocate r c p s).lc = .constructed := rfl
@[simp] theorem allocate_diag (r : BitVec 6) (c : BitVec 7) (p : BitVec 3) (s : State) :
    (allocate r c p s).diag = s.diag := rfl
@[simp] theorem allocate_rows (r : BitVec 6) (c : BitVec 7) (p : BitVec 3) (s : State) :
    (allocate r c p s).rows = r := rfl
@[simp] theorem allocate_cols (r : BitVec 6) (c : BitVec 7) (p : BitVec 3) (s : State) :
    (allocate r c p s).cols = c := rfl
@[simp] theorem allocate_planes (r : BitVec 6) (c : BitVec 7) (p : BitVec 3) (s : State) :
    (allocate r c p s).planes = p := rfl
@[simp] theorem allocate_rowPins (r : BitVec 6) (c : BitVec 7) (p : BitVec 3) (s : State) :
    (allocate r c p s).rowPins = s.rowPins := rfl
@[simp] theorem allocate_colPins (r : BitVec 6) (c : BitVec 7) (p : BitVec 3) (s : State) :
    (allocate r c p s).colPins = s.colPins := rfl
@[simp] theorem allocate_srPins (r : BitVec 6) (c : BitVec 7) (p : BitVec 3) (s : State) :
    (allocate r c p s).srPins = s.srPins := rfl
@[simp] theorem allocate_base (r : BitVec 6) (c : BitVec 7) (p : BitVec 3) (s : State) :
    (allocate r c p s).base = s.base := rfl
@[simp] theorem allocate_ptable (r : BitVec 6) (c : BitVec 7) (p : BitVec 3) (s : State) :
    (allocate r c p s).ptable = s.ptable := rfl
@[simp] theorem allocate_curRow (r : BitVec 6) (c : BitVec 7) (p : BitVec 3) (s : State) :
    (allocate r c p s).curRow = s.curRow := rfl
@[simp] theorem allocate_curPlane (r : BitVec 6) (c : BitVec 7) (p : BitVec 3) (s : State) :
    (allocate r c p s).curPlane = s.curPlane := rfl
@[simp] theorem allocate_slot (r : BitVec 6) (c : BitVec 7) (p : BitVec 3) (s : State) :
    (allocate r c p s).slot = s.slot := rfl
@[simp] theorem allocate_now (r : BitVec 6) (c : BitVec 7) (p : BitVec 3) (s : State) :
    (allocate r c p s).now = s.now := rfl
@[simp] theorem allocate_count (r : BitVec 6) (c : BitVec 7) (p : BitVec 3) (s : State) :
    (allocate r c p s).count = s.count := rfl
@[simp] theorem allocate_period (r : BitVec 6) (c : BitVec 7) (p : BitVec 3) (s : State) :
    (allocate r c p s).period = s.period := rfl
@[simp] theorem allocate_ten (r : BitVec 6) (c : BitVec 7) (p : BitVec 3) (s : State) :
    (allocate r c p s).ten = s.ten := rfl
@[simp] theorem allocate_irqPending (r : BitVec 6) (c : BitVec 7) (p : BitVec 3) (s : State) :
    (allocate r c p s).irqPending = s.irqPending := rfl
@[simp] theorem allocate_lastStart (r : BitVec 6) (c : BitVec 7) (p : BitVec 3) (s : State) :
    (allocate r c p s).lastStart = s.lastStart := rfl
@[simp] theorem allocate_runtime (r : BitVec 6) (c : BitVec 7) (p : BitVec 3) (s : State) :
    (allocate r c p s).runtime = s.runtime := rfl
@[simp] theorem allocate_latency (r : BitVec 6) (c : BitVec 7) (p : BitVec 3) (s : State) :
    (allocate r c p s).latency = s.latency := rfl
@[simp] theorem allocate_fb (r : BitVec 6) (c : BitVec 7) (p : BitVec 3) (s : State) :
    (allocate r c p s).fb = Memory.drawn (r.toNat * c.toNat) s.draws.fb := rfl
@[simp] theorem allocate_clearIdx (r : BitVec 6) (c : BitVec 7) (p : BitVec 3) (s : State) :
    (allocate r c p s).clearIdx = s.clearIdx := rfl
@[simp] theorem allocate_lines (r : BitVec 6) (c : BitVec 7) (p : BitVec 3) (s : State) :
    (allocate r c p s).lines = s.lines := rfl
@[simp] theorem allocate_trace (r : BitVec 6) (c : BitVec 7) (p : BitVec 3) (s : State) :
    (allocate r c p s).trace = s.trace := rfl
@[simp] theorem allocate_response (r : BitVec 6) (c : BitVec 7) (p : BitVec 3) (s : State) :
    (allocate r c p s).response = s.response := rfl
@[simp] theorem allocate_hostQueue (r : BitVec 6) (c : BitVec 7) (p : BitVec 3) (s : State) :
    (allocate r c p s).hostQueue = s.hostQueue := rfl
@[simp] theorem allocate_schedule (r : BitVec 6) (c : BitVec 7) (p : BitVec 3) (s : State) :
    (allocate r c p s).schedule = s.schedule := rfl
@[simp] theorem allocate_round (r : BitVec 6) (c : BitVec 7) (p : BitVec 3) (s : State) :
    (allocate r c p s).round = s.round := rfl
@[simp] theorem allocate_draws (r : BitVec 6) (c : BitVec 7) (p : BitVec 3) (s : State) :
    (allocate r c p s).draws = { s.draws with fb := s.draws.fb + r.toNat * c.toNat } := rfl
@[simp] theorem allocate_params (r : BitVec 6) (c : BitVec 7) (p : BitVec 3) (s : State) :
    (allocate r c p s).params = s.params := rfl

/-! ### launch -/

@[simp] theorem launch_lc (s : State) : (launch s).lc = .running := rfl
@[simp] theorem launch_diag (s : State) : (launch s).diag = s.diag := rfl
@[simp] theorem launch_rows (s : State) : (launch s).rows = s.rows := rfl
@[simp] theorem launch_cols (s : State) : (launch s).cols = s.cols := rfl
@[simp] theorem launch_planes (s : State) : (launch s).planes = s.planes := rfl
@[simp] theorem launch_rowPins (s : State) : (launch s).rowPins = s.rowPins := rfl
@[simp] theorem launch_colPins (s : State) : (launch s).colPins = s.colPins := rfl
@[simp] theorem launch_srPins (s : State) : (launch s).srPins = s.srPins := rfl
@[simp] theorem launch_base (s : State) : (launch s).base = s.base := rfl
@[simp] theorem launch_ptable (s : State) : (launch s).ptable = s.ptable := rfl
@[simp] theorem launch_curRow (s : State) : (launch s).curRow = 0 := rfl
@[simp] theorem launch_curPlane (s : State) : (launch s).curPlane = 0 := rfl
@[simp] theorem launch_slot (s : State) : (launch s).slot = 0 := rfl
@[simp] theorem launch_now (s : State) : (launch s).now = s.now := rfl
@[simp] theorem launch_count (s : State) : (launch s).count = 0 := rfl
@[simp] theorem launch_period (s : State) : (launch s).period = periodEntry s 0 := rfl
@[simp] theorem launch_ten (s : State) : (launch s).ten = true := rfl
@[simp] theorem launch_irqPending (s : State) : (launch s).irqPending = false := rfl
@[simp] theorem launch_lastStart (s : State) : (launch s).lastStart = s.now := rfl
@[simp] theorem launch_runtime (s : State) : (launch s).runtime = s.runtime := rfl
@[simp] theorem launch_latency (s : State) : (launch s).latency = s.latency := rfl
@[simp] theorem launch_fb (s : State) : (launch s).fb = s.fb := rfl
@[simp] theorem launch_clearIdx (s : State) : (launch s).clearIdx = s.clearIdx := rfl
@[simp] theorem launch_lines (s : State) : (launch s).lines = s.lines := rfl
@[simp] theorem launch_trace (s : State) : (launch s).trace = s.trace := rfl
@[simp] theorem launch_response (s : State) : (launch s).response = s.response := rfl
@[simp] theorem launch_hostQueue (s : State) : (launch s).hostQueue = s.hostQueue := rfl
@[simp] theorem launch_schedule (s : State) : (launch s).schedule = s.schedule := rfl
@[simp] theorem launch_round (s : State) : (launch s).round = s.round := rfl
@[simp] theorem launch_draws (s : State) : (launch s).draws = s.draws := rfl
@[simp] theorem launch_params (s : State) : (launch s).params = s.params := rfl

/-! ### Updates with one caller -/

@[simp] theorem takeInterrupt_eq (s : State) : takeInterrupt s = { s with irqPending := false } := rfl

@[simp] theorem timerSetPeriod_eq (v : Micros) (s : State) :
    timerSetPeriod v s = { s with period := v, count := 0 } := rfl

@[simp] theorem timerReprogram_eq (v : Micros) (s : State) : timerReprogram v s = { s with period := v } := rfl

@[simp] theorem recordLatency_eq (s : State) :
    recordLatency s = { s with latency := s.now - s.lastStart, lastStart := s.now } := rfl

@[simp] theorem recordRuntime_eq (s : State) :
    recordRuntime s =
      { s with
        runtime := Config.runtimeDraw s.draws.runtime,
        draws := { s.draws with runtime := s.draws.runtime + 1 } } := rfl

/-- Two states are equal when their fields are; the whole of a response apart, `respond` changes nothing. -/
theorem respond_eq (st : Status) (d : ResponseData) (s : State) :
    respond st d s = { s with response := some ⟨st, d⟩ } := rfl

theorem halt_eq (d : HaltCause) (s : State) :
    halt d s =
      { s with
        lc := .halted, diag := d.code, ten := false, irqPending := false,
        response := some ⟨.errHalted, d.code.setWidth 32⟩ } := rfl

end Sys2Proof.Machine
end

