-- ==== Sys2Proof/Laws/Ops.lean ====
section
/-! SUPPORT. One specification lemma per shared operation: what it can do, said once. -/

namespace Sys2Proof.Machine

/-! ### collect -/

/-- `collect` answers exactly when `f` answers on every element. -/
theorem collect_eq_ok_map {α β : Type} {f : α → Except Fault β} {g : α → β} {l : List α}
    (h : ∀ a ∈ l, f a = .ok (g a)) : collect f l = .ok (l.map g) := by
  induction l with
  | nil => rfl
  | cons a rest ih =>
    simp [collect, h a List.mem_cons_self, ih fun b hb => h b (List.mem_cons_of_mem a hb)]

/-- The answers of a successful `collect`, position by position. -/
theorem forall₂_of_collect {α β : Type} {f : α → Except Fault β} {l : List α} {bs : List β}
    (h : collect f l = .ok bs) : List.Forall₂ (fun a b => f a = .ok b) l bs := by
  induction l generalizing bs with
  | nil =>
    cases h
    exact .nil
  | cons a rest ih =>
    simp only [collect] at h
    split at h
    · cases h
    · rename_i b hb
      split at h
      · cases h
      · rename_i cs hcs
        cases h
        exact .cons hb (ih hcs)

theorem length_of_collect {α β : Type} {f : α → Except Fault β} {l : List α} {bs : List β}
    (h : collect f l = .ok bs) : bs.length = l.length :=
  (forall₂_of_collect h).length_eq.symm

/-! ### Frame-buffer cells -/

theorem memRead_eq_ok {s : State} {i : Nat} {v : CellValue} : memRead s i = .ok v ↔ s.fb.read i = some v := by
  unfold memRead
  split <;> simp_all

/-- A successful write changes FB only, and there only the one cell. -/
theorem memWrite_eq_ok {s t : State} {i : Nat} {v : CellValue} :
    memWrite i v s = .ok t ↔ ∃ m, s.fb.write i v = some m ∧ t = { s with fb := m } := by
  unfold memWrite
  split <;> rename_i h <;> rw [h] <;> simp [eq_comm]

/-- A write to an existing cell succeeds. -/
theorem memWrite_of_mem {s : State} {i : Nat} (v : CellValue) (h : i ∈ s.fb.map Prod.fst) :
    memWrite i v s = .ok { s with fb := insertKey i v s.fb } :=
  memWrite_eq_ok.mpr ⟨_, Memory.write_eq_some v h, rfl⟩

/-- A read of an existing cell succeeds. -/
theorem memRead_of_mem {s : State} {i : Nat} (h : i ∈ s.fb.map Prod.fst) : ∃ v, memRead s i = .ok v := by
  obtain ⟨v, hv⟩ := Option.isSome_iff_exists.mp ((lookupKey_isSome_iff i s.fb).mpr h)
  exact ⟨v, memRead_eq_ok.mpr hv⟩

/-! ### The lifecycle gate -/

theorem guarded_legal {k : CommandClass} {s : State} (h : legalIn k s.lc = true)
    (body : Host.Outcome State Fault Refusal) : guarded k s body = body := by
  simp [guarded, h]

theorem guarded_halted {k : CommandClass} {s : State} (h : legalIn k s.lc = false) (hl : s.lc = .halted)
    (body : Host.Outcome State Fault Refusal) : guarded k s body = .next (respond .errHalted 0 s) := by
  rw [guarded, if_neg (by simp [h]), if_pos hl]

theorem guarded_illegal {k : CommandClass} {s : State} (h : legalIn k s.lc = false) (hl : s.lc ≠ .halted)
    (body : Host.Outcome State Fault Refusal) : guarded k s body = .next (respond .errState 0 s) := by
  simp [guarded, h, hl]

/-- Everything a guarded command can answer. -/
theorem guarded_next {k : CommandClass} {s t : State} {body : Host.Outcome State Fault Refusal}
    (h : guarded k s body = .next t) :
    (legalIn k s.lc = true ∧ body = .next t) ∨
    (legalIn k s.lc = false ∧ ∃ st, t = respond st 0 s ∧ (st = .errHalted ∨ st = .errState)) := by
  unfold guarded at h
  split at h
  · rename_i hl
    exact .inl ⟨hl, h⟩
  · rename_i hl
    have hl : legalIn k s.lc = false := by simpa using hl
    split at h
    · cases h
      exact .inr ⟨hl, _, rfl, .inl rfl⟩
    · cases h
      exact .inr ⟨hl, _, rfl, .inr rfl⟩

/-! ### Outcomes -/

theorem outcomeOf_next {r : Except Fault State} {t : State} : outcomeOf r = .next t ↔ r = .ok t := by
  cases r <;> simp [outcomeOf]

end Sys2Proof.Machine
end

