-- ==== Sys2Proof/Laws/Gpio.lean ====
section
/-! SUPPORT. Laws of the GPIO event words and of emitting them. -/

namespace Sys2Proof.Machine

/-! ### Event words (30_encoding.md R96) -/

theorem eventWord_pin (op : GpioOp) : (eventWord op).extractLsb' 0 8 = op.line := by
  apply BitVec.eq_of_getLsbD_eq
  intro i hi
  cases op <;> simp only [eventWord, GpioOp.line, BitVec.getLsbD_extractLsb', BitVec.getLsbD_append] <;>
    interval_cases i <;> simp

theorem eventWord_reserved (op : GpioOp) : (eventWord op).extractLsb' 8 5 = 0#5 := by
  apply BitVec.eq_of_getLsbD_eq
  intro i hi
  cases op <;> simp only [eventWord, BitVec.getLsbD_extractLsb', BitVec.getLsbD_append] <;>
    interval_cases i <;> simp

theorem eventWord_kind (op : GpioOp) :
    (eventWord op).extractLsb' 13 3 =
      match op with
      | .cfgOut _ => 0#3
      | .driveLow _ => 1#3
      | .driveHigh _ => 2#3 := by
  apply BitVec.eq_of_getLsbD_eq
  intro i hi
  cases op <;> simp only [eventWord, BitVec.getLsbD_extractLsb', BitVec.getLsbD_append] <;>
    interval_cases i <;> simp

/-- Different primitives have different event words. -/
theorem eventWord_injective {a b : GpioOp} (h : eventWord a = eventWord b) : a = b := by
  have hl : a.line = b.line := by rw [← eventWord_pin, ← eventWord_pin, h]
  have hk := (eventWord_kind a).symm.trans ((congrArg _ h).trans (eventWord_kind b))
  cases a <;> cases b <;> simp_all [GpioOp.line]

@[simp] theorem eventWord_inj {a b : GpioOp} : eventWord a = eventWord b ↔ a = b :=
  ⟨eventWord_injective, fun h => h ▸ rfl⟩

/-- Every primitive on a line has an event word that decodes. -/
theorem decodeEvent_eventWord {op : GpioOp} (h : op.line ≠ noneLine) :
    ∃ i, decodeEvent (eventWord op) = .ok i := by
  unfold decodeEvent
  rw [eventWord_kind]
  cases op <;> simp [checkEvent, eventWord_reserved, eventWord_pin, h]

/-! ### Lines -/

theorem lineAt_insert (s : State) (l m : LineId) (v : Line) :
    (lookupKey m.toNat (insertKey l.toNat v s.lines)).getD .undriven =
      if m = l then v else lineAt s m := by
  rw [lookupKey_insertKey]
  by_cases h : m = l
  · simp [h]
  · rw [if_neg fun hn => h (BitVec.eq_of_toNat_eq hn), if_neg h]
    rfl

@[simp] theorem lineAt_setOutput (s : State) (l m : LineId) (v : Level) :
    lineAt (setOutput l v s) m = if m = l then ⟨.output, v⟩ else lineAt s m :=
  lineAt_insert s l m _

/-- Lines are a function of the field `lines` alone. -/
theorem lineAt_congr {s t : State} (h : s.lines = t.lines) (l : LineId) : lineAt s l = lineAt t l := by
  simp [lineAt, h]

/-! ### One primitive -/

/-- The level a primitive leaves on its line. -/
def opLevel (op : GpioOp) (v : Level) (s : State) : Prop :=
  match op with
  | .cfgOut l => v ≠ .z ∧ ((lineAt s l).level ≠ .z → v = (lineAt s l).level)
  | .driveLow l => v = .low ∧ (lineAt s l).mode = .output
  | .driveHigh l => v = .high ∧ (lineAt s l).mode = .output

/-- Everything a successful primitive does: one line, one event, and perhaps a draw. -/
theorem emit_ok {op : GpioOp} {s t : State} (h : emit op s = .ok t) :
    op.line ≠ noneLine ∧ ∃ v g, opLevel op v s ∧
      t = { s with
        lines := insertKey op.line.toNat ⟨.output, v⟩ s.lines,
        trace := s.trace ++ [eventWord op],
        draws := { s.draws with gpio := g } } := by
  cases op with
  | cfgOut l =>
    simp only [emit, gpioCfgOut] at h
    split at h
    · cases h
    · rename_i hl
      refine ⟨hl, ?_⟩
      split at h
      · rename_i hz
        cases h
        exact ⟨_, _, ⟨by cases Config.gpioCfgDraw s.draws.gpio <;> simp [Level.ofBit], fun hn => absurd hz hn⟩, rfl⟩
      · rename_i v hz
        cases h
        exact ⟨_, s.draws.gpio, ⟨hz, fun _ => rfl⟩, rfl⟩
  | driveLow l =>
    simp only [emit, gpioDriveLow, gpioDrive] at h
    split at h
    · cases h
    · rename_i hl
      split at h
      · rename_i hm
        cases h
        exact ⟨hl, _, s.draws.gpio, ⟨rfl, hm⟩, rfl⟩
      · cases h
  | driveHigh l =>
    simp only [emit, gpioDriveHigh, gpioDrive] at h
    split at h
    · cases h
    · rename_i hl
      split at h
      · rename_i hm
        cases h
        exact ⟨hl, _, s.draws.gpio, ⟨rfl, hm⟩, rfl⟩
      · cases h

/-- A configuration of a line always succeeds. -/
theorem emit_cfgOut_ok {l : LineId} (s : State) (h : l ≠ noneLine) : ∃ t, emit (.cfgOut l) s = .ok t := by
  simp only [emit, gpioCfgOut, if_neg h]
  split <;> exact ⟨_, rfl⟩

/-- A drive of a configured line always succeeds. -/
theorem emit_ready_ok {op : GpioOp} {s : State} (h : op.line ≠ noneLine) (hm : (lineAt s op.line).mode = .output) :
    ∃ t, emit op s = .ok t := by
  cases op with
  | cfgOut l => exact emit_cfgOut_ok s h
  | driveLow l =>
    simp only [GpioOp.line] at h hm
    simp [emit, gpioDriveLow, gpioDrive, h, hm]
  | driveHigh l =>
    simp only [GpioOp.line] at h hm
    simp [emit, gpioDriveHigh, gpioDrive, h, hm]

/-- The lines after a primitive. -/
theorem emit_lineAt {op : GpioOp} {s t : State} (h : emit op s = .ok t) :
    ∃ v, opLevel op v s ∧ ∀ m, lineAt t m = if m = op.line then ⟨.output, v⟩ else lineAt s m := by
  obtain ⟨-, v, g, hv, rfl⟩ := emit_ok h
  exact ⟨v, hv, fun m => lineAt_insert s op.line m _⟩

/-- Its line is configured afterwards, and no line loses its configuration. -/
theorem emit_keeps_mode {op : GpioOp} {s t : State} (h : emit op s = .ok t) {m : LineId}
    (hm : m = op.line ∨ (lineAt s m).mode = .output) : (lineAt t m).mode = .output := by
  obtain ⟨v, -, ht⟩ := emit_lineAt h
  rw [ht m]
  split
  · rfl
  · exact hm.resolve_left ‹_›

/-! ### Several primitives -/

theorem emitAll_cons_ok {op : GpioOp} {ops : List GpioOp} {s u : State} :
    emitAll (op :: ops) s = .ok u ↔ ∃ t, emit op s = .ok t ∧ emitAll ops t = .ok u := by
  simp only [emitAll]
  split
  · rename_i t ht
    simp [ht]
  · rename_i f hf
    simp [hf]

theorem emitAll_append_ok {a b : List GpioOp} {s u : State} :
    emitAll (a ++ b) s = .ok u ↔ ∃ t, emitAll a s = .ok t ∧ emitAll b t = .ok u := by
  induction a generalizing s with
  | nil => simp [emitAll]
  | cons op ops ih =>
    simp only [List.cons_append, emitAll_cons_ok, ih]
    constructor
    · rintro ⟨t, ht, v, hv, hu⟩
      exact ⟨v, ⟨t, ht, hv⟩, hu⟩
    · rintro ⟨v, ⟨t, ht, hv⟩, hu⟩
      exact ⟨t, ht, v, hv, hu⟩

/-- The frame of emitting: lines, TRACE and the draw counter; TRACE grows by exactly the events. -/
theorem emitAll_frame {ops : List GpioOp} {s t : State} (h : emitAll ops s = .ok t) :
    t = { s with
      lines := t.lines,
      trace := s.trace ++ ops.map eventWord,
      draws := { s.draws with gpio := t.draws.gpio } } := by
  induction ops generalizing s with
  | nil =>
    cases h
    simp
  | cons op ops ih =>
    obtain ⟨u, hu, ht⟩ := emitAll_cons_ok.mp h
    obtain ⟨-, v, g, -, rfl⟩ := emit_ok hu
    rw [ih ht]
    simp

/-- Primitives on configured lines all succeed. -/
theorem emitAll_ready_ok {ops : List GpioOp} {s : State}
    (h : ∀ op ∈ ops, op.line ≠ noneLine ∧ (lineAt s op.line).mode = .output) :
    ∃ t, emitAll ops s = .ok t := by
  induction ops generalizing s with
  | nil => exact ⟨s, rfl⟩
  | cons op ops ih =>
    obtain ⟨u, hu⟩ := emit_ready_ok (h op List.mem_cons_self).1 (h op List.mem_cons_self).2
    obtain ⟨t, ht⟩ := ih fun q hq =>
      ⟨(h q (List.mem_cons_of_mem _ hq)).1, emit_keeps_mode hu (.inr (h q (List.mem_cons_of_mem _ hq)).2)⟩
    exact ⟨t, emitAll_cons_ok.mpr ⟨u, hu, ht⟩⟩

/-- After primitives, every line they touched is configured, and no line has lost its configuration. -/
theorem emitAll_keeps_mode {ops : List GpioOp} {s t : State} (h : emitAll ops s = .ok t) {m : LineId}
    (hm : (∃ op ∈ ops, m = op.line) ∨ (lineAt s m).mode = .output) : (lineAt t m).mode = .output := by
  induction ops generalizing s with
  | nil =>
    cases h
    simpa using hm
  | cons op ops ih =>
    obtain ⟨u, hu, ht⟩ := emitAll_cons_ok.mp h
    refine ih ht ?_
    rcases hm with ⟨q, hq, rfl⟩ | hm
    · rcases List.mem_cons.mp hq with rfl | hq
      · exact .inr (emit_keeps_mode hu (.inl rfl))
      · exact .inl ⟨q, hq, rfl⟩
    · exact .inr (emit_keeps_mode hu (.inr hm))

/-- The events of a successful emission name lines. -/
theorem emitAll_lines_exist {ops : List GpioOp} {s t : State} (h : emitAll ops s = .ok t) :
    ∀ op ∈ ops, op.line ≠ noneLine := by
  induction ops generalizing s with
  | nil => simp
  | cons op ops ih =>
    obtain ⟨u, hu, ht⟩ := emitAll_cons_ok.mp h
    intro q hq
    rcases List.mem_cons.mp hq with rfl | hq
    · exact (emit_ok hu).1
    · exact ih ht q hq

/-- Emitting keeps the canonical form of the lines. -/
theorem emitAll_linesRising {ops : List GpioOp} {s t : State} (h : emitAll ops s = .ok t)
    (hs : risingKeys s.lines) : risingKeys t.lines := by
  induction ops generalizing s with
  | nil =>
    cases h
    exact hs
  | cons op ops ih =>
    obtain ⟨u, hu, ht⟩ := emitAll_cons_ok.mp h
    obtain ⟨-, v, g, -, rfl⟩ := emit_ok hu
    exact ih ht (risingKeys_insertKey _ _ hs)

/-- The frame of emitting as an equation that `rfl` can substitute. -/
theorem emitAll_exists {ops : List GpioOp} {s t : State} (h : emitAll ops s = .ok t) :
    ∃ L g, t = { s with
      lines := L, trace := s.trace ++ ops.map eventWord, draws := { s.draws with gpio := g } } :=
  ⟨_, _, emitAll_frame h⟩

/-- Drives draw nothing. -/
theorem emitAll_draws {ops : List GpioOp} {s t : State} (h : emitAll ops s = .ok t)
    (hd : ∀ l, .cfgOut l ∉ ops) : t.draws = s.draws := by
  induction ops generalizing s with
  | nil =>
    cases h
    rfl
  | cons op ops ih =>
    obtain ⟨u, hu, ht⟩ := emitAll_cons_ok.mp h
    rw [ih ht fun l hl => hd l (List.mem_cons_of_mem _ hl)]
    cases op with
    | cfgOut l => exact absurd List.mem_cons_self (hd l)
    | driveLow l =>
      simp only [emit, gpioDriveLow, gpioDrive] at hu
      split at hu
      · cases hu
      · split at hu <;> cases hu
        rfl
    | driveHigh l =>
      simp only [emit, gpioDriveHigh, gpioDrive] at hu
      split at hu
      · cases hu
      · split at hu <;> cases hu
        rfl

/-- A listed line is configured and has a level. -/
theorem emitAll_linesDriven {ops : List GpioOp} {s t : State} (h : emitAll ops s = .ok t)
    (hs : ∀ p ∈ s.lines, p.1 < 255 ∧ p.2.mode = .output ∧ p.2.level ≠ .z) :
    ∀ p ∈ t.lines, p.1 < 255 ∧ p.2.mode = .output ∧ p.2.level ≠ .z := by
  induction ops generalizing s with
  | nil =>
    cases h
    exact hs
  | cons op ops ih =>
    obtain ⟨u, hu, ht⟩ := emitAll_cons_ok.mp h
    refine ih ht fun p hp => ?_
    obtain ⟨hl, v, g, hv, rfl⟩ := emit_ok hu
    rcases mem_insertKey hp with rfl | hp
    · have hlt := op.line.isLt
      have hne : op.line.toNat ≠ 255 := fun hh => hl (BitVec.eq_of_toNat_eq hh)
      refine ⟨by simp only; omega, rfl, ?_⟩
      cases op <;> simp only [opLevel] at hv <;> simp [hv.1]
    · exact hs p hp

/-- TRACE holds event words only. -/
theorem emitAll_traceEvents {ops : List GpioOp} {s t : State} (h : emitAll ops s = .ok t)
    (hs : ∀ e ∈ s.trace, (decodeEvent e).toOption.isSome = true) :
    ∀ e ∈ t.trace, (decodeEvent e).toOption.isSome = true := by
  have hx := emitAll_lines_exist h
  rw [emitAll_frame h]
  intro e he
  rcases List.mem_append.mp he with he | he
  · exact hs e he
  · obtain ⟨op, hop, rfl⟩ := List.mem_map.mp he
    obtain ⟨i, hi⟩ := decodeEvent_eventWord (hx op hop)
    simp [hi, Except.toOption]

end Sys2Proof.Machine
end

