-- ==== Sys2Proof/Laws/Commands.lean ====
section
/-! SUPPORT. What each meaning and each agent can do, said once: "if it answers next t, then one of these". -/

namespace Sys2Proof.Machine

/-- The lifecycle states of the table's rows (60_exceptions.md R203). -/
theorem legal_construct {lc : Lifecycle} : legalIn .construct lc = true ↔ lc = .unconstructed := by
  simp [legalIn]

theorem legal_bringUp {lc : Lifecycle} : legalIn .bringUp lc = true ↔ lc = .constructed := by
  simp [legalIn]

theorem legal_frameBuffer {lc : Lifecycle} :
    legalIn .frameBuffer lc = true ↔ lc = .constructed ∨ lc = .running := by
  simp [legalIn]

theorem legal_display {lc : Lifecycle} : legalIn .display lc = true ↔ lc ≠ .halted := by
  simp [legalIn]

theorem execConstruct_next {r : BitVec 6} {c : BitVec 7} {p : BitVec 3} {s t : State}
    (h : execConstruct r c p s = .next t) :
    (∃ st, t = respond st 0 s) ∨
    (s.lc = .unconstructed ∧ (t = halt .badGeometry s ∨ t = halt .allocFail s)) ∨
    (s.lc = .unconstructed ∧ geometryOk r.toNat c.toNat p.toNat = true ∧
      r.toNat * c.toNat ≤ s.params.fbWords ∧ t = respond .ok 0 (allocate r c p s)) := by
  rcases guarded_next h with ⟨hl, h⟩ | ⟨-, st, rfl, -⟩
  · have hl := legal_construct.mp hl
    split at h
    · split at h
      · cases h
        exact .inr (.inl ⟨hl, .inr rfl⟩)
      · cases h
        exact .inr (.inr ⟨hl, ‹_›, by omega, rfl⟩)
    · cases h
      exact .inr (.inl ⟨hl, .inl rfl⟩)
  · exact .inl ⟨st, rfl⟩

theorem execRowpin_next {pin : LineId} {s t : State} (h : execRowpin pin s = .next t) :
    (∃ st, t = respond st 0 s) ∨
    (s.lc = .constructed ∧ s.rowPins.length ≠ 32 ∧
      t = respond .ok 0 { s with rowPins := s.rowPins ++ [pin] }) := by
  rcases guarded_next h with ⟨hl, h⟩ | ⟨-, st, rfl, -⟩
  · split at h
    · cases h
      exact .inl ⟨_, rfl⟩
    · cases h
      exact .inr ⟨legal_bringUp.mp hl, ‹_›, rfl⟩
  · exact .inl ⟨st, rfl⟩

theorem execColpin_next {pin : LineId} {s t : State} (h : execColpin pin s = .next t) :
    (∃ st, t = respond st 0 s) ∨
    (s.lc = .constructed ∧ s.colPins.length ≠ 256 ∧
      t = respond .ok 0 { s with colPins := s.colPins ++ [pin] }) := by
  rcases guarded_next h with ⟨hl, h⟩ | ⟨-, st, rfl, -⟩
  · split at h
    · cases h
      exact .inl ⟨_, rfl⟩
    · cases h
      exact .inr ⟨legal_bringUp.mp hl, ‹_›, rfl⟩
  · exact .inl ⟨st, rfl⟩

theorem execSrpins_next {plane : BitVec 2} {d k l : LineId} {s t : State}
    (h : execSrpins plane d k l s = .next t) :
    (∃ st, t = respond st 0 s) ∨
    (s.lc = .constructed ∧ plane.toNat < s.planeCount ∧
      t = respond .ok 0 { s with srPins := s.srPins.put plane ⟨d, k, l⟩ }) := by
  rcases guarded_next h with ⟨hl, h⟩ | ⟨-, st, rfl, -⟩
  · split at h
    · cases h
      exact .inl ⟨_, rfl⟩
    · cases h
      exact .inr ⟨legal_bringUp.mp hl, by omega, rfl⟩
  · exact .inl ⟨st, rfl⟩

theorem execPeriod_next {us : BitVec 24} {s t : State} (h : execPeriod us s = .next t) :
    (∃ st, t = respond st 0 s) ∨ (s.lc = .constructed ∧ t = respond .ok 0 { s with base := us }) := by
  rcases guarded_next h with ⟨hl, h⟩ | ⟨-, st, rfl, -⟩
  · cases h
    exact .inr ⟨legal_bringUp.mp hl, rfl⟩
  · exact .inl ⟨st, rfl⟩

theorem execBegin_next {s t : State} (h : execBegin s = .next t) :
    (∃ st, t = respond st 0 s) ∨
    (s.lc = .constructed ∧ ∃ d, beginFailure s = some d ∧ t = halt d s) ∨
    (s.lc = .constructed ∧ beginFailure s = none ∧ ∃ u, emitAll (beginOps s) s = .ok u ∧
      t = respond .ok 0 (launch { u with ptable := periodTable u.base })) := by
  rcases guarded_next h with ⟨hl, h⟩ | ⟨-, st, rfl, -⟩
  · have hl := legal_bringUp.mp hl
    split at h
    · cases h
      exact .inr (.inl ⟨hl, _, ‹_›, rfl⟩)
    · split at h
      · cases h
      · cases h
        exact .inr (.inr ⟨hl, ‹_›, _, ‹_›, rfl⟩)
  · exact .inl ⟨st, rfl⟩

theorem execFbwr_next {row : BitVec 5} {col : BitVec 6} {v : CellValue} {s t : State}
    (h : execFbwr row col v s = .next t) :
    (∃ st, t = respond st 0 s) ∨
    ((s.lc = .constructed ∨ s.lc = .running) ∧ inRange s row.toNat col.toNat = true ∧
      ∃ u, memWrite (cellIndex s row.toNat col.toNat) v s = .ok u ∧ t = respond .ok 0 u) := by
  rcases guarded_next h with ⟨hl, h⟩ | ⟨-, st, rfl, -⟩
  · split at h
    · split at h
      · cases h
        exact .inr ⟨legal_frameBuffer.mp hl, ‹_›, _, ‹_›, rfl⟩
      · cases h
    · cases h
      exact .inl ⟨_, rfl⟩
  · exact .inl ⟨st, rfl⟩

theorem execFbrd_next {row : BitVec 5} {col : BitVec 6} {s t : State} (h : execFbrd row col s = .next t) :
    ∃ st d, t = respond st d s ∧ (d = 0 ∨ st = .ok) := by
  rcases guarded_next h with ⟨hl, h⟩ | ⟨-, st, rfl, -⟩
  · split at h
    · split at h
      · cases h
        exact ⟨_, _, rfl, .inr rfl⟩
      · cases h
    · cases h
      exact ⟨_, _, rfl, .inl rfl⟩
  · exact ⟨st, 0, rfl, .inl rfl⟩

theorem execClear_next {s t : State} (h : execClear s = .next t) :
    (∃ st, t = respond st 0 s) ∨
    ((s.lc = .constructed ∨ s.lc = .running) ∧ t = { s with clearIdx := some 0, response := none }) := by
  rcases guarded_next h with ⟨hl, h⟩ | ⟨-, st, rfl, -⟩
  · cases h
    exact .inr ⟨legal_frameBuffer.mp hl, rfl⟩
  · exact .inl ⟨st, rfl⟩

theorem execWritedisplay_next {s t : State} (h : execWritedisplay s = .next t) : ∃ st, t = respond st 0 s := by
  rcases guarded_next h with ⟨-, h⟩ | ⟨-, st, rfl, -⟩
  · cases h
    exact ⟨_, rfl⟩
  · exact ⟨st, rfl⟩

/-- A read answers in every state and writes nothing (44_diagnostics.md R197). -/
@[simp] theorem answerRead_eq (d : ResponseData) (s : State) : answerRead d s = .next (respond .ok d s) := rfl

/-- Everything a CLEAR step can do (41_framebuffer.md R132). -/
theorem clearStep_next {s t : State} (h : clearStep s = .next t) :
    ∃ i u, s.clearIdx = some i ∧ memWrite i 0 s = .ok u ∧
      ((i + 1 = s.cellCount ∧ t = respond .ok 0 { u with clearIdx := none }) ∨
        (i + 1 ≠ s.cellCount ∧ t = { u with clearIdx := some (i + 1) })) := by
  unfold clearStep at h
  split at h
  · rename_i i hi
    unfold clearCell at h
    split at h
    · cases h
    · rename_i u hu
      split at h
      · cases h
        exact ⟨i, u, hi, hu, .inl ⟨‹_›, rfl⟩⟩
      · cases h
        exact ⟨i, u, hi, hu, .inr ⟨‹_›, rfl⟩⟩
  · cases h

/-- Everything a TICK can do (60_exceptions.md R215, R216). -/
theorem tickStep_cases (s : State) :
    (s.ten = false ∧ tickStep s = { s with now := s.now + 1 }) ∨
    (s.ten = true ∧ s.period ≤ s.count + 1 ∧
      tickStep s = { s with now := s.now + 1, count := 0, irqPending := true }) ∨
    (s.ten = true ∧ s.count + 1 < s.period ∧ tickStep s = { s with now := s.now + 1, count := s.count + 1 }) := by
  unfold tickStep countTick
  cases h : s.ten
  · exact .inl ⟨rfl, by simp⟩
  · by_cases hp : s.period ≤ s.count + 1
    · exact .inr (.inl ⟨rfl, hp, by simp only [ge_iff_le, hp, if_true]⟩)
    · exact .inr (.inr ⟨rfl, BitVec.not_le.mp hp, by simp only [ge_iff_le, hp, if_true, if_false]⟩)

/-- The state in which the engine's events are computed and emitted: dispatch, step 1, step 3. -/
def engineStart (s : State) : State := reprogramPeriod (recordLatency (takeInterrupt s))

/-- Everything an ENGINE step can do (60_exceptions.md R220, 42_refresh_engine.md R154). -/
theorem engineStep_next {s t : State} :
    engineStep s = .next t ↔
      ∃ ops u, invocationOps (engineStart s) = .ok ops ∧ emitAll ops (engineStart s) = .ok u ∧
        t = recordRuntime (advanceCursor u) := by
  rw [engineStep, outcomeOf_next, invoke]
  change (match invocationOps (engineStart s) with
    | .error f => Except.error f
    | .ok ops =>
      match emitAll ops (engineStart s) with
      | .error f => Except.error f
      | .ok s2 => Except.ok (recordRuntime (advanceCursor s2))) = Except.ok t ↔ _
  cases hops : invocationOps (engineStart s) with
  | error f => simp
  | ok ops =>
    cases hu : emitAll ops (engineStart s) with
    | error f => simp [hu]
    | ok u => simp [hu, eq_comm]

/-- An agent taken from a schedule is enabled. -/
theorem nextTurn_enabled {s : State} {l rest : List Agent} {a : Agent} (h : nextTurn s l = some (a, rest)) :
    agentEnabled a s = true := by
  induction l with
  | nil => cases h
  | cons b l ih =>
    simp only [nextTurn] at h
    split at h
    · cases h
      assumption
    · exact ih h

/-- A freely drawn agent is enabled. -/
theorem drawnAgent_enabled (s : State) : agentEnabled (drawnAgent s) s = true := by
  unfold drawnAgent
  split
  · assumption
  · split
    · assumption
    · split
      · assumption
      · rfl

/-- So is the agent of an unscheduled step, and it is the owed one when its turn has come. -/
theorem unscheduledAgent_enabled (s : State) : agentEnabled (unscheduledAgent s) s = true := by
  unfold unscheduledAgent
  split
  · rename_i h
    exact h.2
  · exact drawnAgent_enabled s

theorem unscheduledAgent_owed {s : State} (hf : s.round.free = 0) (he : agentEnabled s.round.owed s = true) :
    unscheduledAgent s = s.round.owed := if_pos ⟨hf, he⟩

theorem roundAfter_zero {s : State} (h : s.round.free = 0) :
    roundAfter s = ⟨Config.gapDraw (s.draws.agent + 1), owedAfter s.round.owed⟩ := by simp [roundAfter, h]

theorem roundAfter_succ {s : State} {n : Nat} (h : s.round.free = n + 1) : roundAfter s = ⟨n, s.round.owed⟩ := by
  simp [roundAfter, h]

/-- The schedule gets shorter with each agent taken from it. -/
theorem nextTurn_shorter {s : State} {l rest : List Agent} {a : Agent} (h : nextTurn s l = some (a, rest)) :
    rest.length < l.length := by
  induction l with
  | nil => cases h
  | cons b l ih =>
    simp only [nextTurn] at h
    split at h
    · cases h
      exact Nat.lt_succ_self _
    · exact Nat.lt_succ_of_lt (ih h)

/-- The two ways a step chooses its agent. -/
theorem chooseTurn_cases (s : State) :
    (∃ a rest, nextTurn s s.schedule = some (a, rest) ∧ chooseTurn s = (a, { s with schedule := rest })) ∨
    (nextTurn s s.schedule = none ∧
      chooseTurn s =
        (unscheduledAgent s,
          { s with
            schedule := [], round := roundAfter s, draws := { s.draws with agent := s.draws.agent + 1 } })) := by
  unfold chooseTurn
  split
  · exact .inl ⟨_, _, ‹_›, rfl⟩
  · exact .inr ⟨‹_›, rfl⟩

/-- No operation touches the turns to come. -/
theorem exec_turns {i : Instr} {s t : State} (h : exec i s = .next t) :
    t.schedule = s.schedule ∧ t.round = s.round := by
  cases i with
  | construct r c p => rcases execConstruct_next h with ⟨_, rfl⟩ | ⟨-, rfl | rfl⟩ | ⟨-, -, -, rfl⟩ <;> exact ⟨rfl, rfl⟩
  | rowpin pin => rcases execRowpin_next h with ⟨_, rfl⟩ | ⟨-, -, rfl⟩ <;> exact ⟨rfl, rfl⟩
  | colpin pin => rcases execColpin_next h with ⟨_, rfl⟩ | ⟨-, -, rfl⟩ <;> exact ⟨rfl, rfl⟩
  | srpins c d k l => rcases execSrpins_next h with ⟨_, rfl⟩ | ⟨-, -, rfl⟩ <;> exact ⟨rfl, rfl⟩
  | period us => rcases execPeriod_next h with ⟨_, rfl⟩ | ⟨-, rfl⟩ <;> exact ⟨rfl, rfl⟩
  | begin =>
    rcases execBegin_next h with ⟨_, rfl⟩ | ⟨-, _, -, rfl⟩ | ⟨-, -, u, hu, rfl⟩
    · exact ⟨rfl, rfl⟩
    · exact ⟨rfl, rfl⟩
    · rw [emitAll_frame hu]
      exact ⟨rfl, rfl⟩
  | clear => rcases execClear_next h with ⟨_, rfl⟩ | ⟨-, rfl⟩ <;> exact ⟨rfl, rfl⟩
  | writedisplay =>
    obtain ⟨_, rfl⟩ := execWritedisplay_next h
    exact ⟨rfl, rfl⟩
  | fbwr row col v =>
    rcases execFbwr_next h with ⟨_, rfl⟩ | ⟨-, -, u, hu, rfl⟩
    · exact ⟨rfl, rfl⟩
    · obtain ⟨m, -, rfl⟩ := memWrite_eq_ok.mp hu
      exact ⟨rfl, rfl⟩
  | fbrd row col =>
    obtain ⟨_, _, rfl, -⟩ := execFbrd_next h
    exact ⟨rfl, rfl⟩
  | rdruntime | rdlatency | rdstatus | rdperiod _ | rdcursor | rdtables =>
    cases h
    exact ⟨rfl, rfl⟩
  | gpioCfgOut l =>
    obtain ⟨-, _, _, -, rfl⟩ := emit_ok (op := .cfgOut l) (outcomeOf_next.mp h)
    exact ⟨rfl, rfl⟩
  | gpioDriveLow l =>
    obtain ⟨-, _, _, -, rfl⟩ := emit_ok (op := .driveLow l) (outcomeOf_next.mp h)
    exact ⟨rfl, rfl⟩
  | gpioDriveHigh l =>
    obtain ⟨-, _, _, -, rfl⟩ := emit_ok (op := .driveHigh l) (outcomeOf_next.mp h)
    exact ⟨rfl, rfl⟩

/-- No agent touches the turns to come; only choosing a turn does. -/
theorem runAgent_turns {a : Agent} {s t : State} (h : runAgent a s = .next t) :
    t.schedule = s.schedule ∧ t.round = s.round := by
  cases a with
  | host =>
    simp only [runAgent, hostStep] at h
    split at h
    · cases h
    · simp only [acceptWord] at h
      split at h
      · have ht := exec_turns h
        exact ht
      · cases h
        exact ⟨rfl, rfl⟩
  | clear =>
    obtain ⟨i, u, -, hu, ⟨-, rfl⟩ | ⟨-, rfl⟩⟩ := clearStep_next h <;> obtain ⟨m, -, rfl⟩ := memWrite_eq_ok.mp hu <;>
      exact ⟨rfl, rfl⟩
  | tick =>
    cases h
    rcases tickStep_cases s with ⟨-, e⟩ | ⟨-, -, e⟩ | ⟨-, -, e⟩ <;> rw [e] <;> exact ⟨rfl, rfl⟩
  | engine =>
    obtain ⟨ops, u, -, hu, rfl⟩ := engineStep_next.mp h
    rw [emitAll_frame hu]
    unfold advanceCursor engineStart reprogramPeriod
    split <;> split <;> exact ⟨rfl, rfl⟩
  | reset =>
    cases h
    exact ⟨rfl, rfl⟩

/-- What a step leaves to come: a shorter schedule and the same round, or no schedule and the round gone on. -/
theorem step_turns {s t : State} (h : step s = .next t) :
    (t.schedule.length < s.schedule.length ∧ t.round = s.round) ∨
    ((chooseTurn s).1 = unscheduledAgent s ∧ t.schedule = [] ∧ t.round = roundAfter s) := by
  have ht := runAgent_turns h
  rcases chooseTurn_cases s with ⟨a, rest, hn, hc⟩ | ⟨-, hc⟩ <;> rw [hc] at ht
  · exact .inl ⟨by rw [ht.1]; exact nextTurn_shorter hn, ht.2⟩
  · exact .inr ⟨by rw [hc], ht⟩

/-- An offered word is the very next one taken. -/
theorem step_offerWord (w : CommandWord) (s : State) : step (offerWord w s) = acceptWord w { s with clearIdx := none } :=
  rfl

/-- A GPIO primitive offered by its event word is performed by the BEGIN of a matrix on its line (log 1). -/
theorem step_offerCode_event {op : GpioOp} (s : State) (h : op.line ≠ noneLine) :
    step (offerCode (.event (eventWord op)) s) = execBegin { oneLineMatrix op.line s with clearIdx := none } := by
  have hc : offerCode (.event (eventWord op)) s = offerWord (encodeN 0x06#5) (oneLineMatrix op.line s) := by
    obtain ⟨i, hi⟩ := decodeEvent_eventWord h
    simp [offerCode, hi, eventWord_pin]
  rw [hc, step_offerWord]
  rfl

end Sys2Proof.Machine
end

