-- ==== Sys2Proof/Laws/Engine.lean ====
section
/-! SUPPORT. Laws of BEGIN's validation and of the engine's register updates, and the frames of the invariant. -/

namespace Sys2Proof.Machine

/-- All of BEGIN's checks pass (43_controller_config.md R181 to R185). -/
theorem beginFailure_eq_none {s : State} :
    beginFailure s = none ↔
      s.rowPins.length = s.rowCount ∧ colLenOk s = true ∧ noneLine ∉ s.rowPins ∧ noneLine ∉ s.colPins ∧
        triplesOk s = true ∧ s.base ≠ 0 := by
  unfold beginFailure
  split
  · simp [*]
  · split
    · simp_all
    · split
      · simp_all
        tauto
      · split
        · simp_all
        · split <;> simp_all

theorem curRow_toNat_eq_zero {s : State} : s.curRow.toNat = 0 ↔ s.curRow = 0 :=
  ⟨fun h => BitVec.eq_of_toNat_eq h, fun h => by simp [h]⟩

/-- Dispatch, step 1 and step 3 as one update. -/
theorem engineStart_eq (s : State) :
    engineStart s =
      { s with
        irqPending := false, latency := s.now - s.lastStart, lastStart := s.now,
        period := if s.curRow = 0 then periodEntry s s.curPlane else s.period,
        slot := if s.curRow = 0 then s.curPlane else s.slot } := by
  unfold engineStart reprogramPeriod
  by_cases h : s.curRow = 0
  · rw [if_pos h, if_pos h,
      if_pos (show (recordLatency (takeInterrupt s)).curRow.toNat = 0 from curRow_toNat_eq_zero.mpr h)]
    rfl
  · rw [if_neg h, if_neg h,
      if_neg (show ¬(recordLatency (takeInterrupt s)).curRow.toNat = 0 from fun hh => h (curRow_toNat_eq_zero.mp hh))]
    rfl

@[simp] theorem engineStart_lines (s : State) : (engineStart s).lines = s.lines := by rw [engineStart_eq]
@[simp] theorem engineStart_trace (s : State) : (engineStart s).trace = s.trace := by rw [engineStart_eq]
@[simp] theorem engineStart_draws (s : State) : (engineStart s).draws = s.draws := by rw [engineStart_eq]

/-- The events do not depend on what dispatch and steps 1 and 3 write. -/
theorem invocationOps_engineStart (s : State) : invocationOps (engineStart s) = invocationOps s := by
  rw [engineStart_eq]
  rfl

/-- Step 7 as one update. -/
theorem advanceCursor_eq (s : State) :
    advanceCursor s =
      { s with
        curRow := if s.curRow.toNat + 1 = s.rowCount then 0 else s.curRow + 1,
        curPlane := if s.curRow.toNat + 1 = s.rowCount then s.curPlane + 1 else s.curPlane } := by
  unfold advanceCursor
  split <;> rfl

/-- The lines of an SR_LOAD are those of its triple. -/
theorem srLoadOps_line {o : SrOrder} {t : SrTriple} {bits : List Bool} {op : GpioOp}
    (h : op ∈ srLoadOps o t bits) : op.line = t.data ∨ op.line = t.clock ∨ op.line = t.latch := by
  simp only [srLoadOps, List.mem_append, List.mem_flatMap, List.mem_cons, List.not_mem_nil, or_false] at h
  rcases h with (rfl | ⟨j, -, rfl | rfl | rfl⟩) | rfl
  · exact .inr (.inr rfl)
  · cases bits.getD j false <;> exact .inl rfl
  · exact .inr (.inl rfl)
  · exact .inr (.inl rfl)
  · exact .inr (.inr rfl)

end Sys2Proof.Machine

namespace Sys2Proof.Safety

open Sys2Proof.Machine

theorem mem_wiredTriples {s : State} {t : SrTriple} :
    t ∈ wiredTriples s ↔ ∃ c, c < s.planeCount ∧ s.srPins.get? c = some t ∧ t.wired = true := by
  simp [wiredTriples, List.mem_filterMap, Option.filter_eq_some_iff]

theorem mem_srLines {s : State} {l : LineId} :
    l ∈ srLines s ↔ ∃ t ∈ wiredTriples s, l = t.data ∨ l = t.clock ∨ l = t.latch := by
  simp [srLines]

/-- A cell in range exists. -/
theorem Inv.cell {s : State} (h : Inv s) {r j : Nat} (hr : r < s.rowCount) (hj : j < s.colCount) :
    ∃ v, s.fb.read (r * s.colCount + j) = some v := by
  refine Option.isSome_iff_exists.mp ((lookupKey_isSome_iff _ _).mpr ?_)
  rw [h.cells, List.mem_range]
  calc
    r * s.colCount + j < r * s.colCount + s.colCount := by omega
    _ = (r + 1) * s.colCount := by ring
    _ ≤ s.rowCount * s.colCount := Nat.mul_le_mul_right _ hr

/-- Which agents move, what the host offers and what has been drawn do not matter to the invariant. -/
theorem Inv.environment {s : State} (h : Inv s) (q : List CommandWord) (d : Draws) (sch : List Agent) (r : Round) :
    Inv { s with hostQueue := q, schedule := sch, round := r, draws := d } :=
  ⟨h.cells, h.capacity, h.linesRising, h.linesDriven, h.rowTable, h.colTable, h.geometryNone, h.geometryLegal,
    h.geometryHalted, h.unusedTriples, h.clearing, h.diagnosis, h.timerOn, h.noRequest, h.idle, h.validated,
    h.periods, h.cursor, h.sweep, h.ready, h.traceEvents⟩

/-- CLEAR_IDX and the response may change together. -/
theorem Inv.clearing_response {s : State} (h : Inv s) {c : Option Nat} {r : Option Response}
    (hc : ∀ i, c = some i → (s.lc = .constructed ∨ s.lc = .running) ∧ i < s.cellCount ∧ r = none) :
    Inv { s with clearIdx := c, response := r } :=
  ⟨h.cells, h.capacity, h.linesRising, h.linesDriven, h.rowTable, h.colTable, h.geometryNone, h.geometryLegal,
    h.geometryHalted, h.unusedTriples, hc, h.diagnosis, h.timerOn, h.noRequest, h.idle, h.validated,
    h.periods, h.cursor, h.sweep, h.ready, h.traceEvents⟩

/-- A response while no CLEAR is in progress. -/
theorem Inv.respond {s : State} (h : Inv s) (hc : s.clearIdx = none) (st : Status) (d : ResponseData) :
    Inv (respond st d s) := by
  have := h.clearing_response (c := s.clearIdx) (r := some ⟨st, d⟩) fun i hi => absurd (hc ▸ hi) nofun
  exact this

/-- The frame buffer may take other values at the same cells. -/
theorem Inv.cells_change {s : State} (h : Inv s) {m : Memory} (hm : m.map Prod.fst = List.range s.cellCount) :
    Inv { s with fb := m } :=
  ⟨hm, h.capacity, h.linesRising, h.linesDriven, h.rowTable, h.colTable, h.geometryNone, h.geometryLegal,
    h.geometryHalted, h.unusedTriples, h.clearing, h.diagnosis, h.timerOn, h.noRequest, h.idle, h.validated,
    h.periods, h.cursor, h.sweep, h.ready, h.traceEvents⟩

/-- A write of one cell keeps the invariant. -/
theorem Inv.memWrite {s u : State} (h : Inv s) {i : Nat} {v : CellValue} (hu : memWrite i v s = .ok u) : Inv u := by
  obtain ⟨m, hm, rfl⟩ := memWrite_eq_ok.mp hu
  exact h.cells_change ((Memory.keys_write (risingKeys_of_keys_range h.cells) hm).trans h.cells)

end Sys2Proof.Safety
end

