-- ==== Sys2Proof/Laws/PerInstr.lean ====
section
/-! SUPPORT. Laws said per operation. Family OwnRow: the encoding of an operation lies in its own row of the opcode
map (30_encoding.md R93), or, for a GPIO primitive, carries its own KIND and no reserved bit (R96). -/

namespace Sys2Proof.Laws

/-- Bit-wise equality of two vectors of one width, checked bit by bit. -/
theorem ext_bits {n : Nat} {a b : BitVec n} (h : ∀ j, j < n → a.getLsbD j = b.getLsbD j) : a = b :=
  BitVec.eq_of_getLsbD_eq h

/-- The mnemonic of an operation in spec/opcode_table.json. -/
def OwnRow.mnemonic : Instr → String
  | .construct _ _ _ => "CONSTRUCT"
  | .rowpin _ => "ROWPIN"
  | .colpin _ => "COLPIN"
  | .srpins _ _ _ _ => "SRPINS"
  | .period _ => "PERIOD"
  | .begin => "BEGIN"
  | .clear => "CLEAR"
  | .writedisplay => "WRITEDISPLAY"
  | .fbwr _ _ _ => "FBWR"
  | .fbrd _ _ => "FBRD"
  | .rdruntime => "RDRUNTIME"
  | .rdlatency => "RDLATENCY"
  | .rdstatus => "RDSTATUS"
  | .rdperiod _ => "RDPERIOD"
  | .rdcursor => "RDCURSOR"
  | .rdtables => "RDTABLES"
  | .gpioCfgOut _ => "GPIO_CFG_OUT"
  | .gpioDriveLow _ => "GPIO_DRIVE_LOW"
  | .gpioDriveHigh _ => "GPIO_DRIVE_HIGH"

/-- The fixed bits of an event row (spec/opcode_table.json); a command has none. -/
def OwnRow.eventBits : Instr → EventWord
  | .gpioDriveLow _ => 0x2000#16
  | .gpioDriveHigh _ => 0x4000#16
  | _ => 0x0000#16

/-- The encoding of `i` lies in the row of its own mnemonic. -/
def OwnRow.Statement (i : Instr) : Prop :=
  match encode i with
  | .command w => ∃ r ∈ opcodeMap, r.mnemonic = OwnRow.mnemonic i ∧ w &&& r.mask = r.bits
  | .event e => i.isCommand = false ∧ e &&& 0xFF00#16 = OwnRow.eventBits i

theorem OwnRow.construct (rows : BitVec 6) (cols : BitVec 7) (planes : BitVec 3) : OwnRow.Statement (.construct rows cols planes) := by
  refine ⟨⟨"CONSTRUCT", 0x08000000#32, 0xF80007FF#32⟩, by simp [opcodeMap], rfl, ext_bits fun j hj => ?_⟩
  simp only [BitVec.getLsbD_and, BitVec.getLsbD_append]
  interval_cases j <;> simp

theorem OwnRow.rowpin (pin : LineId) : OwnRow.Statement (.rowpin pin) := by
  refine ⟨⟨"ROWPIN", 0x10000000#32, 0xFFFFFF00#32⟩, by simp [opcodeMap], rfl, ext_bits fun j hj => ?_⟩
  simp only [BitVec.getLsbD_and, BitVec.getLsbD_append]
  interval_cases j <;> simp

theorem OwnRow.colpin (pin : LineId) : OwnRow.Statement (.colpin pin) := by
  refine ⟨⟨"COLPIN", 0x18000000#32, 0xFFFFFF00#32⟩, by simp [opcodeMap], rfl, ext_bits fun j hj => ?_⟩
  simp only [BitVec.getLsbD_and, BitVec.getLsbD_append]
  interval_cases j <;> simp

theorem OwnRow.srpins (plane : BitVec 2) (data clock latch : LineId) : OwnRow.Statement (.srpins plane data clock latch) := by
  refine ⟨⟨"SRPINS", 0x20000000#32, 0xF9000000#32⟩, by simp [opcodeMap], rfl, ext_bits fun j hj => ?_⟩
  simp only [BitVec.getLsbD_and, BitVec.getLsbD_append]
  interval_cases j <;> simp

theorem OwnRow.period (us : BitVec 24) : OwnRow.Statement (.period us) := by
  refine ⟨⟨"PERIOD", 0x28000000#32, 0xFF000000#32⟩, by simp [opcodeMap], rfl, ext_bits fun j hj => ?_⟩
  simp only [BitVec.getLsbD_and, BitVec.getLsbD_append]
  interval_cases j <;> simp

theorem OwnRow.begin : OwnRow.Statement .begin :=
  ⟨⟨"BEGIN", 0x30000000#32, 0xFFFFFFFF#32⟩, by simp [opcodeMap], rfl, rfl⟩

theorem OwnRow.clear : OwnRow.Statement .clear :=
  ⟨⟨"CLEAR", 0x38000000#32, 0xFFFFFFFF#32⟩, by simp [opcodeMap], rfl, rfl⟩

theorem OwnRow.writedisplay : OwnRow.Statement .writedisplay :=
  ⟨⟨"WRITEDISPLAY", 0x40000000#32, 0xFFFFFFFF#32⟩, by simp [opcodeMap], rfl, rfl⟩

theorem OwnRow.fbwr (row : BitVec 5) (col : BitVec 6) (value : CellValue) : OwnRow.Statement (.fbwr row col value) := by
  refine ⟨⟨"FBWR", 0x48000000#32, 0xF8000000#32⟩, by simp [opcodeMap], rfl, ext_bits fun j hj => ?_⟩
  simp only [BitVec.getLsbD_and, BitVec.getLsbD_append]
  interval_cases j <;> simp

theorem OwnRow.fbrd (row : BitVec 5) (col : BitVec 6) : OwnRow.Statement (.fbrd row col) := by
  refine ⟨⟨"FBRD", 0x50000000#32, 0xF800FFFF#32⟩, by simp [opcodeMap], rfl, ext_bits fun j hj => ?_⟩
  simp only [BitVec.getLsbD_and, BitVec.getLsbD_append]
  interval_cases j <;> simp

theorem OwnRow.rdruntime : OwnRow.Statement .rdruntime :=
  ⟨⟨"RDRUNTIME", 0x58000000#32, 0xFFFFFFFF#32⟩, by simp [opcodeMap], rfl, rfl⟩

theorem OwnRow.rdlatency : OwnRow.Statement .rdlatency :=
  ⟨⟨"RDLATENCY", 0x60000000#32, 0xFFFFFFFF#32⟩, by simp [opcodeMap], rfl, rfl⟩

theorem OwnRow.rdstatus : OwnRow.Statement .rdstatus :=
  ⟨⟨"RDSTATUS", 0x68000000#32, 0xFFFFFFFF#32⟩, by simp [opcodeMap], rfl, rfl⟩

theorem OwnRow.rdperiod (idx : BitVec 2) : OwnRow.Statement (.rdperiod idx) := by
  refine ⟨⟨"RDPERIOD", 0x70000000#32, 0xFFFFFFFC#32⟩, by simp [opcodeMap], rfl, ext_bits fun j hj => ?_⟩
  simp only [BitVec.getLsbD_and, BitVec.getLsbD_append]
  interval_cases j <;> simp

theorem OwnRow.rdcursor : OwnRow.Statement .rdcursor :=
  ⟨⟨"RDCURSOR", 0x78000000#32, 0xFFFFFFFF#32⟩, by simp [opcodeMap], rfl, rfl⟩

theorem OwnRow.rdtables : OwnRow.Statement .rdtables :=
  ⟨⟨"RDTABLES", 0x80000000#32, 0xFFFFFFFF#32⟩, by simp [opcodeMap], rfl, rfl⟩

theorem OwnRow.gpioCfgOut (line : LineId) : OwnRow.Statement (.gpioCfgOut line) := by
  refine ⟨rfl, ext_bits fun j hj => ?_⟩
  simp only [eventWord, OwnRow.eventBits, BitVec.getLsbD_and, BitVec.getLsbD_append]
  interval_cases j <;> simp

theorem OwnRow.gpioDriveLow (line : LineId) : OwnRow.Statement (.gpioDriveLow line) := by
  refine ⟨rfl, ext_bits fun j hj => ?_⟩
  simp only [eventWord, OwnRow.eventBits, BitVec.getLsbD_and, BitVec.getLsbD_append]
  interval_cases j <;> simp

theorem OwnRow.gpioDriveHigh (line : LineId) : OwnRow.Statement (.gpioDriveHigh line) := by
  refine ⟨rfl, ext_bits fun j hj => ?_⟩
  simp only [eventWord, OwnRow.eventBits, BitVec.getLsbD_and, BitVec.getLsbD_append]
  interval_cases j <;> simp

end Sys2Proof.Laws
end

