-- ==== Sys2Proof/Tests/Slice0.lean ====
section
/-! SUPPORT. Tests. Expected words, responses and events are those of 95_test_vectors.md (cited as V-…) or are laid out
by hand from the formats of 30_encoding.md; the witnesses show that each statement's hypotheses can be met together. -/

namespace Sys2Proof.Tests

open Sys2Proof.Machine Sys2Proof.Safety

/-! ### Helpers -/

/-- The next state passes a check. -/
def after (o : Host.Outcome State Fault Refusal) (p : State → Bool) : Bool :=
  match o with
  | .next t => p t
  | _ => false

/-- The response of a next state. -/
def answers (o : Host.Outcome State Fault Refusal) (st : Status) (d : ResponseData) : Bool :=
  after o fun t => decide (t.response = some ⟨st, d⟩)

/-- Reset with the parameters of 95_test_vectors.md, FB_WORDS = 2048. -/
def fresh : State := { State.reset with params := ⟨2047, .asc, true⟩ }

/-- Program C with two rows: plane 0 direct on shared columns, plane 1 SR-wired. -/
def built : State :=
  { fresh with
    lc := .constructed, rows := 2, cols := 2, planes := 2, rowPins := [0x00, 0x01], colPins := [0x10, 0x11],
    srPins := fresh.srPins.put 1 ⟨0x20, 0x21, 0x22⟩, base := 5,
    fb := [(0, 0x0031), (1, 0x0050), (2, 0x0003), (3, 0xFFFF)] }

/-- `built` after BEGIN: the events of 43_controller_config.md R186 and the levels they leave. -/
def running : State :=
  { built with
    lc := .running, ptable := ⟨5, 10, 20, 40⟩, period := 5, ten := true, response := some ⟨.ok, 0⟩,
    draws := ⟨0, 7, 0, 0⟩,
    trace :=
      [0x0000, 0x4000, 0x0001, 0x4001, 0x0010, 0x2010, 0x0011, 0x2011, 0x0020, 0x2020, 0x0021, 0x2021, 0x0022, 0x4022] ++
        [0x2022, 0x2020, 0x4021, 0x2021, 0x2020, 0x4021, 0x2021, 0x4022],
    lines :=
      [(0x00, ⟨.output, .high⟩), (0x01, ⟨.output, .high⟩), (0x10, ⟨.output, .low⟩), (0x11, ⟨.output, .low⟩),
        (0x20, ⟨.output, .low⟩), (0x21, ⟨.output, .low⟩), (0x22, ⟨.output, .high⟩)] }

/-- Program A: one direct plane with its own columns. -/
def direct1 : State :=
  { built with
    planes := 1, srPins := fresh.srPins, base := 10,
    fb := [(0, 0x0001), (1, 0x0002), (2, 0x0003), (3, 0x000F)] }

/-- `direct1` after BEGIN: V-BEG-1's events. -/
def running1 : State :=
  { direct1 with
    lc := .running, ptable := ⟨10, 20, 40, 80⟩, period := 10, ten := true, response := some ⟨.ok, 0⟩,
    draws := ⟨0, 4, 0, 0⟩,
    trace := [0x0000, 0x4000, 0x0001, 0x4001, 0x0010, 0x2010, 0x0011, 0x2011],
    lines :=
      [(0x00, ⟨.output, .high⟩), (0x01, ⟨.output, .high⟩), (0x10, ⟨.output, .low⟩), (0x11, ⟨.output, .low⟩)] }

/-- A halted machine. -/
def stopped : State := halt .badGeometry fresh

/-! ### Ill-formed terms are refused -/

theorem test_wellFormed_cfgOut_none : (Instr.gpioCfgOut 0xFF).wellFormed = false := rfl
theorem test_wellFormed_driveLow_none : (Instr.gpioDriveLow 0xFF).wellFormed = false := rfl
theorem test_wellFormed_driveHigh_none : (Instr.gpioDriveHigh 0xFF).wellFormed = false := rfl
theorem test_wellFormed_driveHigh_highest : (Instr.gpioDriveHigh 0xFE).wellFormed = true := rfl

/-! ### Decoding: one word per constructor, its fields written bit by bit (R85 to R91, R96) -/

/-- OP 00001, ROWS 100000, COLS 1000000, PLANES 100 (V-ENC-24). -/
theorem test_decode_construct : decodeCommand 0b00001_100000_1000000_100_00000000000#32 = .ok (.construct 32 64 4) := rfl
/-- OP 00010, PIN 00000101 (V-ENC-25). -/
theorem test_decode_rowpin : decodeCommand 0b00010_0000000000000000000_00000101#32 = .ok (.rowpin 5) := rfl
/-- OP 00011, PIN 00010001 (V-ENC-26). -/
theorem test_decode_colpin : decodeCommand 0b00011_0000000000000000000_00010001#32 = .ok (.colpin 0x11) := rfl
/-- OP 00100, PLANE 01, DATA 0x20, CLOCK 0x21, LATCH 0x22 (V-ENC-27). -/
theorem test_decode_srpins :
    decodeCommand 0b00100_01_0_00100000_00100001_00100010#32 = .ok (.srpins 1 0x20 0x21 0x22) := rfl
/-- OP 00101, P all ones (V-ENC-31). -/
theorem test_decode_period : decodeCommand 0b00101_000_111111111111111111111111#32 = .ok (.period 16777215) := rfl
/-- OP 00110 (V-ENC-35). -/
theorem test_decode_begin : decodeCommand 0b00110_000000000000000000000000000#32 = .ok .begin := rfl
/-- OP 00111 (V-ENC-35). -/
theorem test_decode_clear : decodeCommand 0b00111_000000000000000000000000000#32 = .ok .clear := rfl
/-- OP 01000 (V-ENC-35). -/
theorem test_decode_writedisplay : decodeCommand 0b01000_000000000000000000000000000#32 = .ok .writedisplay := rfl
/-- OP 01001, ROW 00001, COL 000001, VALUE 0x1234 (V-ENC-32). -/
theorem test_decode_fbwr :
    decodeCommand 0b01001_00001_000001_0001001000110100#32 = .ok (.fbwr 1 1 0x1234) := rfl
/-- OP 01010, ROW 00001, COL 000001 (V-ENC-33). -/
theorem test_decode_fbrd : decodeCommand 0b01010_00001_000001_0000000000000000#32 = .ok (.fbrd 1 1) := rfl
/-- OP 01011 (V-ENC-36). -/
theorem test_decode_rdruntime : decodeCommand 0b01011_000000000000000000000000000#32 = .ok .rdruntime := rfl
/-- OP 01100 (V-ENC-36). -/
theorem test_decode_rdlatency : decodeCommand 0b01100_000000000000000000000000000#32 = .ok .rdlatency := rfl
/-- OP 01101 (V-ENC-36). -/
theorem test_decode_rdstatus : decodeCommand 0b01101_000000000000000000000000000#32 = .ok .rdstatus := rfl
/-- OP 01110, IDX 11 (V-ENC-34). -/
theorem test_decode_rdperiod : decodeCommand 0b01110_0000000000000000000000000_11#32 = .ok (.rdperiod 3) := rfl
/-- OP 01111 (V-ENC-36). -/
theorem test_decode_rdcursor : decodeCommand 0b01111_000000000000000000000000000#32 = .ok .rdcursor := rfl
/-- OP 10000 (V-ENC-36). -/
theorem test_decode_rdtables : decodeCommand 0b10000_000000000000000000000000000#32 = .ok .rdtables := rfl
/-- KIND 000, PIN 00000101 (V-GPIO-1). -/
theorem test_decode_gpioCfgOut : decodeEvent 0b000_00000_00000101#16 = .ok (.gpioCfgOut 5) := rfl
/-- KIND 001, PIN 00010000 (V-GPIO-2). -/
theorem test_decode_gpioDriveLow : decodeEvent 0b001_00000_00010000#16 = .ok (.gpioDriveLow 0x10) := rfl
/-- KIND 010, PIN 11111110 (V-GPIO-4). -/
theorem test_decode_gpioDriveHigh : decodeEvent 0b010_00000_11111110#16 = .ok (.gpioDriveHigh 0xFE) := rfl
/-- V-ENC-1, V-ENC-3: unassigned opcodes. -/
theorem test_decode_unassigned :
    decodeCommand 0x00000000#32 = .error .unassignedOpcode ∧ decodeCommand 0xF8000000#32 = .error .unassignedOpcode :=
  ⟨rfl, rfl⟩
/-- V-ENC-5, V-ENC-6, V-ENC-10: reserved bits. -/
theorem test_decode_reserved :
    decodeCommand 0x10000100#32 = .error .reservedBitSet ∧ decodeCommand 0x21000000#32 = .error .reservedBitSet ∧
    decodeCommand 0x70000004#32 = .error .reservedBitSet := ⟨rfl, rfl, rfl⟩
/-- R97: KIND 3, a reserved event bit, no line. -/
theorem test_decode_event_errors :
    decodeEvent 0x6005#16 = .error .unassignedKind ∧ decodeEvent 0x2110#16 = .error .eventReservedBitSet ∧
    decodeEvent 0x20FF#16 = .error .eventNamesNoLine := ⟨rfl, rfl, rfl⟩
/-- The encoder on V-ENC-24, V-ENC-29, V-ENC-12 and V-GPIO-4. -/
theorem test_encode :
    encode (.construct 32 64 4) = .command 0x0C102000 ∧
    Pseudo.srNone 2 = [.srpins 2 0xFF 0xFF 0xFF] ∧ encode (.srpins 2 0xFF 0xFF 0xFF) = .command 0x24FFFFFF ∧
    encode (.fbwr 31 63 0xFFFF) = .command 0x4FFFFFFF ∧ encode (.gpioDriveHigh 0xFE) = .event 0x40FE := by decide

/-! ### The host's view of a table row -/

theorem test_table_word_command : decodeTableWord 32 0x22202122 = some (.srpins 1 0x20 0x21 0x22) := by decide
theorem test_table_word_event : decodeTableWord 16 0x2010 = some (.gpioDriveLow 0x10) := by decide
theorem test_table_word_rejects : decodeTableWord 32 0x88000000 = none ∧ decodeTableWord 8 0 = none := by decide

/-- A command word offered to a machine whose schedule says otherwise runs next. -/
theorem test_fetch_command :
    after (step ({ running with schedule := [.tick], clearIdx := some 1 }.withFetchWord 32 0x68000000))
      (fun t => decide (t.response = some ⟨.ok, statusData running⟩ ∧ t.schedule = [.tick])) = true := by decide

/-- R97, R186: an event word is no input; the BEGIN that performs its primitive runs next. -/
theorem test_fetch_event :
    after (step (fresh.withFetchWord 16 0x2010))
      (fun t => decide (t.trace = [0x0010, 0x4010, 0x0010, 0x2010] ∧ t.lc = .running)) = true := by decide

/-- A word that is no event changes nothing. -/
theorem test_fetch_no_event : fresh.withFetchWord 16 0x20FF = fresh := rfl

/-! ### CONSTRUCT -/

/-- V-CON-2: the largest geometry exactly fits. -/
theorem test_construct_fits : answers (exec (.construct 32 64 4) fresh) .ok 0 = true := by decide
/-- V-CON-9: the geometry is checked before the capacity. -/
theorem test_construct_order :
    answers (exec (.construct 33 64 4) { fresh with params := ⟨31, .asc, true⟩ }) .errHalted 2 = true := by decide

/-! ### ROWPIN, COLPIN, SRPINS, PERIOD -/

/-- V-CFG-4: NONE is stored. -/
theorem test_rowpin_none : after (exec (.rowpin 0xFF) built) (fun t => decide (t.rowPins = [0, 1, 0xFF])) = true := by
  decide
/-- V-CFG-2: the 33rd is refused. -/
theorem test_rowpin_full :
    answers (exec (.rowpin 5) { built with rowPins := List.replicate 32 0 }) .errFull 0 = true := by decide
/-- V-CFG-10 for COLPIN: not before CONSTRUCT. -/
theorem test_colpin_state : answers (exec (.colpin 5) fresh) .errState 0 = true := by decide
theorem test_colpin_order : after (exec (.colpin 0x12) built) (fun t => decide (t.colPins = [0x10, 0x11, 0x12])) = true := by
  decide
/-- V-CFG-6. -/
theorem test_srpins_arg : answers (exec (.srpins 2 0x20 0x21 0x22) built) .errArg 0 = true := by decide
/-- V-CFG-7. -/
theorem test_srpins_back :
    after (exec (.srpins 1 0xFF 0xFF 0xFF) built) (fun t => decide (t.srPins = fresh.srPins)) = true := by decide
/-- V-CFG-8. -/
theorem test_period_last : after (exec (.period 200) built) (fun t => decide (t.base = 200)) = true := by decide
/-- V-CFG-11. -/
theorem test_period_running : answers (exec (.period 1) running) .errState 0 = true := by decide

/-! ### BEGIN -/

/-- V-BEG-1, V-BEG-15 and R186: the state after BEGIN. -/
theorem test_begin_direct : exec .begin direct1 = .next running1 := rfl
theorem test_begin_wired : exec .begin built = .next running := rfl
/-- V-BEG-8: the length is checked before NONE. -/
theorem test_begin_order :
    answers (exec .begin { direct1 with colPins := [0xFF] }) .errHalted 4 = true := by decide

/-! ### CLEAR, FBWR, FBRD, WRITEDISPLAY -/

/-- V-CLR-4. -/
theorem test_clear_reset : answers (exec .clear fresh) .errState 0 = true := by decide
/-- V-CLR-1: the last CLEAR step answers. -/
theorem test_clear_last :
    after (runAgent .clear { running with clearIdx := some 3, response := none })
      (fun t => decide (t.response = some ⟨.ok, 0⟩ ∧ t.clearIdx = none ∧ t.fb.read 3 = some 0 ∧ t.fb.read 2 = some 3)) =
      true := by decide
/-- V-FB-2. -/
theorem test_fbwr_last_cell :
    after (exec (.fbwr 1 1 0x1234) built) (fun t => decide (t.fb.read 3 = some 0x1234 ∧ t.fb.read 2 = some 3)) = true := by
  decide
/-- V-FB-5: COL = COLS is discarded, not the next row's first cell. -/
theorem test_fbwr_col_out : after (exec (.fbwr 0 2 5) built) (fun t => decide (t.fb = built.fb)) = true := by decide
theorem test_fbrd : answers (exec (.fbrd 0 1) built) .ok 0x50 = true := by decide
/-- V-FB-6. -/
theorem test_fbrd_row_out : answers (exec (.fbrd 2 0) built) .ok 0 = true := by decide
/-- V-FB-9, V-FB-10. -/
theorem test_writedisplay :
    answers (exec .writedisplay fresh) .ok 0 = true ∧ answers (exec .writedisplay stopped) .errHalted 0 = true := by
  decide

/-! ### The reads -/

/-- V-DIA-3. -/
theorem test_rdstatus_halted : answers (exec .rdstatus stopped) .ok 0x203 = true := by decide
/-- V-DIA-5 (program A): LC, geometry. -/
theorem test_rdstatus_running : answers (exec .rdstatus running1) .ok 0x20820002 = true := by decide
/-- V-DIA-4. -/
theorem test_rdperiod :
    answers (exec (.rdperiod 3) { running with ptable := periodTable 200 }) .ok 1600 = true := by decide
/-- V-DIA-5: cursor (1, 1), SLOT 1. -/
theorem test_rdcursor :
    answers (exec .rdcursor { running1 with curRow := 1, curPlane := 1, slot := 1 }) .ok 0x1101 = true := by decide
/-- Program C: plane 1 wired, two column pins; here two row pins. -/
theorem test_rdtables : answers (exec .rdtables running) .ok 0x02000202 = true := by decide
/-- As V-CFG-3, with 100 column pins. -/
theorem test_rdtables_full :
    answers (exec .rdtables { direct1 with colPins := List.replicate 100 0x10 }) .ok 0x6402 = true := by decide
theorem test_rdruntime : answers (exec .rdruntime { stopped with runtime := 7, latency := 9 }) .ok 7 = true := by decide
theorem test_rdlatency : answers (exec .rdlatency { stopped with runtime := 7, latency := 9 }) .ok 9 = true := by decide

/-! ### GPIO primitives -/

/-- V-GPIO-5: a line with a level keeps it. -/
theorem test_gpioCfgOut_again :
    after (exec (.gpioCfgOut 5) (setOutput 5 .high fresh))
      (fun t => decide (lineAt t 5 = ⟨.output, .high⟩ ∧ t.trace = [0x0005])) = true := by decide
/-- V-GPIO-2, V-GPIO-4. -/
theorem test_gpioDrives :
    after (exec (.gpioDriveLow 0x10) (setOutput 0x10 .high fresh)) (fun t => decide (lineAt t 0x10 = ⟨.output, .low⟩)) =
      true ∧
    after (exec (.gpioDriveHigh 0xFE) (setOutput 0xFE .low fresh)) (fun t => decide (lineAt t 0xFE = ⟨.output, .high⟩)) =
      true := by decide

/-! ### Agents -/

/-- V-ENG-1: the worked example R165. -/
theorem test_engine_worked_example :
    after (runAgent .engine { running1 with now := 10, irqPending := true })
      (fun t => decide (t.trace.drop 8 = [0x4001, 0x4010, 0x2011, 0x2000] ∧ t.latency = 10 ∧ t.lastStart = 10 ∧
        t.period = 10 ∧ t.slot = 0 ∧ t.curRow = 1 ∧ t.curPlane = 0 ∧ t.irqPending = false)) = true := by decide
/-- V-ENG-6: the end of a BCM cycle. -/
theorem test_engine_cycle_end :
    after (runAgent .engine { running1 with curRow := 1, curPlane := 3, slot := 3 })
      (fun t => decide (t.curRow = 0 ∧ t.curPlane = 0)) = true := by decide
/-- V-TIM-4: COUNT above a shortened PERIOD expires at the next TICK. -/
theorem test_tick_past_period :
    after (runAgent .tick { running1 with count := 15 })
      (fun t => decide (t.count = 0 ∧ t.irqPending = true ∧ t.now = 1)) = true := by decide
/-- V-TIM-7: the timer is off. -/
theorem test_tick_off : after (runAgent .tick built) (fun t => decide (t.count = 0 ∧ t.now = 1)) = true := by decide
/-- V-SR-1, V-SR-2. -/
theorem test_srLoad :
    (srLoadOps .asc ⟨0x20, 0x21, 0x22⟩ [true, false]).map eventWord =
      [0x2022, 0x4020, 0x4021, 0x2021, 0x2020, 0x4021, 0x2021, 0x4022] ∧
    (srLoadOps .desc ⟨0x20, 0x21, 0x22⟩ [true, false]).map eventWord =
      [0x2022, 0x2020, 0x4021, 0x2021, 0x4020, 0x4021, 0x2021, 0x4022] := by decide
/-- V-PB-1. -/
theorem test_intensity : (List.range 4).map (intensity 0x1234) = [4, 3, 2, 1] := by decide

/-! ### Witnesses: the invariant of concrete states -/

theorem inv_built : Inv built where
  cells := rfl
  capacity := by decide
  linesRising := List.Pairwise.nil
  linesDriven := nofun
  rowTable := by decide
  colTable := by decide
  geometryNone := nofun
  geometryLegal := fun _ => by unfold GeometryLegal; decide
  geometryHalted := nofun
  unusedTriples := by decide
  clearing := nofun
  diagnosis := by decide
  timerOn := by decide
  noRequest := fun _ => rfl
  idle := fun _ => ⟨rfl, rfl, rfl, rfl, rfl⟩
  validated := nofun
  periods := nofun
  cursor := nofun
  sweep := nofun
  ready := nofun
  traceEvents := nofun

/-- The matrix on which an event word is performed is a state of LMX like any other. -/
theorem inv_fetch_event : Inv (fresh.withFetchWord 16 0x2010) where
  cells := rfl
  capacity := by decide
  linesRising := List.Pairwise.nil
  linesDriven := nofun
  rowTable := by decide
  colTable := by decide
  geometryNone := nofun
  geometryLegal := fun _ => by unfold GeometryLegal; decide
  geometryHalted := nofun
  unusedTriples := by decide
  clearing := nofun
  diagnosis := by decide
  timerOn := by decide
  noRequest := fun _ => rfl
  idle := fun _ => ⟨rfl, rfl, rfl, rfl, rfl⟩
  validated := nofun
  periods := nofun
  cursor := nofun
  sweep := nofun
  ready := nofun
  traceEvents := nofun

theorem inv_running : Inv running where
  cells := by decide
  capacity := by decide
  linesRising := by decide
  linesDriven := by decide
  rowTable := by decide
  colTable := by decide
  geometryNone := nofun
  geometryLegal := fun _ => by unfold GeometryLegal; decide
  geometryHalted := nofun
  unusedTriples := by decide
  clearing := nofun
  diagnosis := by decide
  timerOn := by decide
  noRequest := fun h => absurd rfl h
  idle := fun h => absurd rfl h
  validated := fun _ => by decide
  periods := fun _ => by decide
  cursor := fun _ => by decide
  sweep := fun _ => by decide
  ready := fun _ => by decide
  traceEvents := List.all_eq_true.mp (by decide)

theorem inv_running1 : Inv running1 where
  cells := by decide
  capacity := by decide
  linesRising := by decide
  linesDriven := by decide
  rowTable := by decide
  colTable := by decide
  geometryNone := nofun
  geometryLegal := fun _ => by unfold GeometryLegal; decide
  geometryHalted := nofun
  unusedTriples := by decide
  clearing := nofun
  diagnosis := by decide
  timerOn := by decide
  noRequest := fun h => absurd rfl h
  idle := fun h => absurd rfl h
  validated := fun _ => by decide
  periods := fun _ => by decide
  cursor := fun _ => by decide
  sweep := fun _ => by decide
  ready := fun _ => by decide
  traceEvents := List.all_eq_true.mp (by decide)

/-- `running` at its first expiry, with one agent scheduled. -/
def expired (a : Agent) : State := { running with now := 5, irqPending := true, schedule := [a] }

theorem inv_expired (a : Agent) : Inv (expired a) :=
  let h := inv_running
  ⟨h.cells, h.capacity, h.linesRising, h.linesDriven, h.rowTable, h.colTable, h.geometryNone, h.geometryLegal,
    h.geometryHalted, h.unusedTriples, h.clearing, h.diagnosis, h.timerOn, fun hn => absurd rfl hn, h.idle, h.validated,
    h.periods, h.cursor, h.sweep, h.ready, h.traceEvents⟩

/-- `running` with every cell 0. -/
def darkened : State := { running with fb := [(0, 0), (1, 0), (2, 0), (3, 0)] }

theorem inv_darkened : Inv darkened := inv_running.cells_change (by decide)

/-- `running` in the middle of a CLEAR. -/
def clearing : State := { running with clearIdx := some 2, response := none }

theorem inv_clearing : Inv clearing :=
  inv_running.clearing_response fun i hi => by
    cases hi
    exact ⟨.inr rfl, by decide, rfl⟩

/-! ### Witnesses: encoding and steps -/

theorem witness_DecodeOfEncode : (Instr.gpioDriveHigh 0xFE).wellFormed = true ∧ (Instr.fbwr 31 63 0xFFFF).wellFormed = true :=
  ⟨rfl, rfl⟩
theorem witness_EncodeOfDecode :
    decode (.command 0x4FFFFFFF) = .ok (.fbwr 31 63 0xFFFF) ∧ decode (.event 0x40FE) = .ok (.gpioDriveHigh 0xFE) :=
  ⟨rfl, rfl⟩
theorem witness_OpcodeMapDecidesDecoding :
    (∃ r ∈ opcodeMap, 0x70000003#32 &&& r.mask = r.bits) ∧ ¬∃ r ∈ opcodeMap, 0x70000004#32 &&& r.mask = r.bits := by
  decide
theorem witness_StepRunsDecodedOperation :
    (∃ s : State, s.schedule = [.host, .tick] ∧ s.hostQueue = [0x10000005, 0] ∧ s.clearIdx = none) ∧
    decodeCommand 0x10000005#32 = .ok (.rowpin 5) ∧
    ∀ op ∈ [GpioOp.cfgOut 0, .driveHigh 0xFE, .driveLow 0xFE], op.line ≠ noneLine :=
  ⟨⟨{ fresh with schedule := [.host, .tick], hostQueue := [0x10000005, 0] }, rfl, rfl, rfl⟩, rfl, by decide⟩
theorem witness_StepTakesScheduledAgent :
    (expired .engine).schedule = [.engine] ∧ agentEnabled .engine (expired .engine) = true := by decide

/-- A machine before CONSTRUCT to which nothing is offered: only TICK and RESET ever step. -/
def Quiet (s : State) : Prop := s.lc = .unconstructed ∧ s.hostQueue = [] ∧ s.clearIdx = none

theorem quiet_step {s : State} (h : Quiet s) : ∃ t, step s = .next t ∧ Quiet t := by
  obtain ⟨hl, hq, hc⟩ := h
  have he : agentEnabled (chooseTurn s).1 s = true ∧ Quiet (chooseTurn s).2 := by
    rcases chooseTurn_cases s with ⟨a, rest, hn, e⟩ | ⟨-, e⟩ <;> rw [e]
    · exact ⟨nextTurn_enabled hn, hl, hq, hc⟩
    · exact ⟨unscheduledAgent_enabled s, hl, hq, hc⟩
  obtain ⟨he, hl', hq', hc'⟩ := he
  unfold step
  cases ha : (chooseTurn s).1 <;> rw [ha] at he
  case tick =>
    refine ⟨_, rfl, ?_⟩
    rcases tickStep_cases (chooseTurn s).2 with ⟨-, e⟩ | ⟨-, -, e⟩ | ⟨-, -, e⟩ <;> rw [e] <;> exact ⟨hl', hq', hc'⟩
  case reset => exact ⟨_, rfl, rfl, hq', rfl⟩
  all_goals simp [agentEnabled, hl, hq, hc] at he

/-- The state after a step. -/
def stepped (s : State) : State :=
  match step s with
  | .next t => t
  | _ => s

theorem witness_EveryRunIsWeaklyFair : IsRun (fun n => stepped^[n] fresh) := by
  have hq : ∀ n, Quiet (stepped^[n] fresh) ∧ step (stepped^[n] fresh) = .next (stepped^[n + 1] fresh) := by
    intro n
    induction n with
    | zero =>
      obtain ⟨t, ht, -⟩ := quiet_step (s := fresh) ⟨rfl, rfl, rfl⟩
      exact ⟨⟨rfl, rfl, rfl⟩, by simp [stepped, ht]⟩
    | succ n ih =>
      obtain ⟨t, ht, hqt⟩ := quiet_step ih.1
      have e : stepped^[n + 1] fresh = t := Host.Outcome.next.inj (ih.2.symm.trans ht)
      obtain ⟨u, hu, -⟩ := quiet_step hqt
      rw [Function.iterate_succ_apply' stepped (n + 1), e]
      exact ⟨hqt, by simp [stepped, hu]⟩
  exact fun n => (hq n).2

/-! ### Witnesses: the invariant -/

theorem witness_StepKeepsInv : Inv (expired .engine) ∧ ∃ t, step (expired .engine) = .next t := ⟨inv_expired _, _, rfl⟩
theorem witness_EveryStepFromInvAnswersNext : Inv running := inv_running
theorem witness_ParametersNeverChange : ∃ t, step (expired .reset) = .next t := ⟨_, rfl⟩

/-! ### Witnesses: check order and responses -/

theorem witness_LifecycleGateRefuses :
    (Instr.rowpin 5).isCommand = true ∧ legality (.rowpin 5) stopped.lc = false ∧ legality (.rowpin 5) fresh.lc = false ∧
    legality (.rowpin 5) built.lc = true ∧
    (∃ t, exec (.rowpin 5) built = .next t ∧ t.response = some ⟨.ok, 0⟩) ∧
    ∃ t, exec .begin { built with base := 0 } = .next t ∧ t.response = some ⟨.errHalted, 6⟩ :=
  ⟨rfl, rfl, rfl, rfl, ⟨_, rfl, rfl⟩, _, rfl, rfl⟩
theorem witness_RefusalsWriteNothing :
    (∃ t, acceptWord 0x00000000 built = .next t ∧ t.response = some ⟨.errIllegal, 0⟩) ∧
    (∃ t, acceptWord 0x10000005 fresh = .next t ∧ t.response = some ⟨.errState, 0⟩) ∧
    (∃ t, acceptWord 0x10000005 { built with rowPins := List.replicate 32 0 } = .next t ∧
      t.response = some ⟨.errFull, 0⟩) ∧
    (∃ t, acceptWord 0x24202122 built = .next t ∧ t.response = some ⟨.errArg, 0⟩) ∧
    ∃ t, acceptWord 0x10000005 stopped = .next t ∧ t.response = some ⟨.errHalted, 0⟩ ∧ stopped.lc = .halted :=
  ⟨⟨_, rfl, rfl⟩, ⟨_, rfl, rfl⟩, ⟨_, rfl, rfl⟩, ⟨_, rfl, rfl⟩, _, rfl, rfl, rfl⟩
theorem witness_ResponsesAndTheirData :
    (∃ t, exec .clear built = .next t ∧ t.response = none) ∧
    (∃ t, exec (.fbrd 0 0) built = .next t ∧ t.response = some ⟨.ok, 0x31⟩) ∧
    ∃ t, exec (.construct 0 1 1) fresh = .next t ∧ t.response = some ⟨.errHalted, 2⟩ :=
  ⟨⟨_, rfl, rfl⟩, ⟨_, rfl, rfl⟩, _, rfl, rfl⟩

/-! ### Witnesses: construction and bring-up -/

/-- The largest geometry in exactly as many words, one word too few, one row too many, each count 0, the smallest matrix
in the smallest frame buffer (V-CON-2 to V-CON-8). -/
theorem witness_ConstructAllocatesOrHalts :
    fresh.lc = .unconstructed ∧ (32#6).toNat * (64#7).toNat ≤ fresh.params.fbWords ∧
    ({ fresh with params := ⟨2046, .asc, true⟩ } : State).params.fbWords < (32#6).toNat * (64#7).toNat ∧
    ¬((33#6).toNat ≤ 32) ∧ ¬(1 ≤ (0#6).toNat) ∧ ¬(1 ≤ (0#7).toNat) ∧ ¬(1 ≤ (0#3).toNat) ∧
    1 ≤ ({ fresh with params := ⟨0, .asc, true⟩ } : State).params.fbWords ∧ (32#6).toNat ≤ 32 ∧ (64#7).toNat ≤ 64 ∧ (4#3).toNat ≤ 4 := by decide
theorem witness_PinCommandsAppend :
    (({ built with rowPins := List.replicate 31 0 } : State).rowPins.length ≠ 32 ∧
      ({ built with rowPins := List.replicate 32 0 } : State).rowPins.length = 32) ∧
    ({ built with colPins := List.replicate 255 0 } : State).colPins.length ≠ 256 ∧
    ({ built with colPins := List.replicate 256 0 } : State).colPins.length = 256 ∧ built.lc = .constructed :=
  ⟨by decide, by rw [List.length_replicate]; decide, List.length_replicate, rfl⟩
theorem witness_SrpinsSetsOneTriple :
    built.lc = .constructed ∧ (1#2).toNat < built.planes.toNat ∧ built.planes.toNat ≤ (2#2).toNat := by decide
theorem witness_PeriodSetsBase : built.lc = .constructed := rfl
/-- One state for each of the six outcomes (V-BEG-2, 3, 6, 9, 10, 1). -/
theorem witness_BeginHaltsOnFirstFailedCheck :
    built.lc = .constructed ∧
    beginFailure { built with rowPins := [0] } = some .rowTableMismatch ∧
    beginFailure { built with colPins := [0x10] } = some .colTableMismatch ∧
    beginFailure { built with colPins := [0x10, 0xFF] } = some .pinNone ∧
    beginFailure { built with srPins := built.srPins.put 0 ⟨0x20, 0xFF, 0x22⟩ } = some .srTripleInvalid ∧
    beginFailure { built with base := 0 } = some .periodInvalid ∧ beginFailure built = none := by decide
theorem witness_BeginLaunches : built.lc = .constructed ∧ beginFailure built = none := by decide
theorem witness_BeginEmitsItsInitialisation :
    built.lc = .constructed ∧ beginFailure built = none ∧ exec .begin built = .next running :=
  ⟨rfl, by decide, rfl⟩
theorem witness_BeginLaunchLevels :
    beginFailure built = none ∧ exec .begin built = .next running ∧
    (0x00 ∈ built.rowPins ∧ 0x00 ∉ built.colPins ∧ 0x00 ∉ srLines built) ∧
    (0x10 ∈ built.colPins ∧ 0x10 ∉ (wiredTriples built).map SrTriple.latch) ∧
    (0x20 ∈ (wiredTriples built).map SrTriple.data ∧ 0x22 ∈ (wiredTriples built).map SrTriple.latch) :=
  ⟨by decide, rfl, by decide, by decide, by decide⟩

/-! ### Witnesses: the frame buffer -/

theorem witness_FbwrWritesOneCell :
    built.lc = .constructed ∧ running.lc = .running ∧ (1#5).toNat < built.rows.toNat ∧ (1#6).toNat < built.cols.toNat ∧
    (built.fb.read 3).isSome = true ∧ ¬((2#5).toNat < built.rows.toNat) ∧ ¬((2#6).toNat < built.cols.toNat) := by decide
theorem witness_FbrdReadsOneCell :
    built.lc = .constructed ∧ running.lc = .running ∧ built.fb.read 3 = some 0xFFFF ∧
    ¬((2#5).toNat < built.rows.toNat) := by decide
theorem witness_RoundTripAcrossInterrupts :
    Inv (expired .engine) ∧ (expired .engine).lc = .running ∧ (1#5).toNat < (expired .engine).rows.toNat ∧
    ∃ t u, exec (.fbwr 1 1 7) (expired .engine) = .next t ∧ runAgent .engine t = .next u ∧
      AgentSteps (fun a => a = .tick ∨ a = .engine) t u :=
  ⟨inv_expired _, rfl, by decide, _, _, rfl, rfl, .step .engine (.inr rfl) rfl rfl (.refl _)⟩
theorem witness_ClearStarts : built.lc = .constructed ∧ running.lc = .running := ⟨rfl, rfl⟩
/-- Not the last cell, and the last cell. -/
theorem witness_ClearStepZeroesOneCell :
    clearing.clearIdx = some 2 ∧ (clearing.fb.read 2).isSome = true ∧ 2 + 1 ≠ clearing.rows.toNat * clearing.cols.toNat ∧
    ({ clearing with clearIdx := some 3 } : State).clearIdx = some 3 ∧ (clearing.fb.read 3).isSome = true ∧
    3 + 1 = clearing.rows.toNat * clearing.cols.toNat := by decide
theorem witness_ClearRunZeroesEveryCell :
    let s : State := { clearing with clearIdx := some 0 }
    s.fb.map Prod.fst = List.range s.cellCount ∧ s.clearIdx = some 0 ∧ 0 < s.cellCount ∧ 4 ≤ s.cellCount := by decide
theorem witness_ClearAnsweredByItsLastStep :
    Inv clearing ∧ clearing.clearIdx = some 2 ∧ .reset ∉ [Agent.tick, .host, .clear, .engine, .tick] ∧
    [Agent.tick, .host, .clear, .engine, .tick].count .clear + 1 = clearing.cellCount - 2 :=
  ⟨inv_clearing, rfl, by decide, by decide⟩
theorem witness_FillWritesEveryCell : Inv built ∧ built.lc = .constructed ∧ Inv running ∧ running.lc = .running :=
  ⟨inv_built, rfl, inv_running, rfl⟩
theorem witness_WritedisplayIsNoOp : fresh.lc ≠ .halted ∧ built.lc ≠ .halted ∧ running.lc ≠ .halted := by decide
theorem witness_TablesWordLayout :
    ({ built with rowPins := List.replicate 32 0 } : State).rowPins.length ≤ 32 ∧
    ({ built with colPins := List.replicate 256 0 } : State).colPins.length ≤ 256 ∧ (3 : Nat) < 4 :=
  ⟨by decide, by rw [List.length_replicate], by decide⟩

/-! ### Witnesses: lifecycle and access rights -/

theorem witness_LifecycleTransitions :
    (∃ t, step (expired .reset) = .next t ∧ t.lc ≠ (expired .reset).lc) ∧
    ((chooseTurn (fresh.withFetchWord 32 0x08408800)).1 = .host ∧
      (fresh.withFetchWord 32 0x08408800).hostQueue.head? = some 0x08408800 ∧
      ∃ t, step (fresh.withFetchWord 32 0x08408800) = .next t ∧ t.lc = .constructed) ∧
    (∃ t, step (fresh.withFetchWord 32 0x08004800) = .next t ∧ t.lc = .halted) ∧
    (∃ t, step (built.withFetchWord 32 0x30000000) = .next t ∧ t.lc = .running) ∧
    ∃ t, step (State.withFetchWord { built with base := 0 } 32 0x30000000) = .next t ∧ t.lc = .halted :=
  ⟨⟨_, rfl, by decide⟩, ⟨rfl, rfl, _, rfl, rfl⟩, ⟨_, rfl, rfl⟩, ⟨_, rfl, rfl⟩, _, rfl, rfl⟩
theorem witness_ConfigurationClosedAfterBegin :
    (∃ t, step (expired .engine) = .next t ∧ (chooseTurn (expired .engine)).1 = .engine) ∧
    ∃ t, step { stopped with schedule := [.tick] } = .next t ∧ stopped.lc = .halted :=
  ⟨⟨_, rfl, rfl⟩, _, rfl, rfl⟩
theorem witness_AgentWriteAccess :
    (∃ t, runAgent .tick running = .next t) ∧ (∃ t, runAgent .clear clearing = .next t) ∧
    (∃ t, runAgent .engine (expired .engine) = .next t) ∧
    (∃ t, acceptWord 0x10000005 built = .next t ∧ decodeCommand 0x10000005#32 ≠ .ok .begin ∧ t.lc ≠ .halted) ∧
    ∃ t, acceptWord 0x10000005 stopped = .next t ∧ stopped.lc = .halted :=
  ⟨⟨_, rfl⟩, ⟨_, rfl⟩, ⟨_, rfl⟩, ⟨_, rfl, nofun, nofun⟩, _, rfl, rfl⟩

/-! ### Witnesses: the timer -/

/-- PERIOD = 5: COUNT 3 counts, COUNT 4 expires. -/
theorem witness_TickCounts :
    built.ten = false ∧ running.ten = true ∧ running.period ≤ 4 + 1 ∧ (3 : Micros) + 1 < running.period := by decide
theorem witness_ExpiryAfterPeriodTicks :
    running.ten = true ∧ running.count = 0 ∧ 1 ≤ running.period.toNat ∧ 4 < running.period.toNat ∧
    1 ≤ (({ running with period := 1 } : State).period).toNat := by decide
theorem promptTiming_expired (a : Agent) : PromptTiming (expired a) := fun _ _ => ⟨rfl, rfl⟩
theorem witness_StepKeepsPromptTiming :
    Inv (expired .engine) ∧ PromptTiming (expired .engine) ∧ ∃ t, step (expired .engine) = .next t :=
  ⟨inv_expired _, promptTiming_expired _, _, rfl⟩
theorem witness_PromptLatencyIsPlaneWeight :
    Inv (expired .engine) ∧ PromptTiming (expired .engine) ∧ (expired .engine).params.promptDispatch = true ∧
    agentEnabled .engine (expired .engine) = true :=
  ⟨inv_expired _, promptTiming_expired _, rfl, rfl⟩

/-! ### Witnesses: the engine -/

theorem witness_EngineRegisters : Inv running ∧ running.lc = .running := ⟨inv_running, rfl⟩
theorem witness_EngineEmitsItsEvents : Inv running ∧ running.lc = .running ∧ ∃ t, runAgent .engine running = .next t :=
  ⟨inv_running, rfl, _, rfl⟩
theorem witness_CycleClosure : Inv running ∧ running.lc = .running ∧ running.curRow = 0 := ⟨inv_running, rfl, rfl⟩

theorem rowLinesApart_running : RowLinesApart running := by
  refine ⟨by decide, ?_⟩
  decide

/-- At no point of BEGIN's events has a row line been driven low, and at the end each is high. -/
theorem rows_off_running :
    ((List.range 23).all fun n => running.rowPins.all fun l => lastDrive l (running.trace.take n) != some false) = true ∧
    (running.rowPins.all fun l => lastDrive l running.trace == some true) = true := by decide

theorem oneRowOn_expired (a : Agent) : OneRowOn (expired a) := by
  refine fun _ _ => ⟨fun n l hl m _ hlow _ => ?_, fun r l hr _ => ?_⟩
  · have hoff : ∀ k, k < 23 → lastDrive l (running.trace.take k) ≠ some false := fun k hk => by
      simpa using List.all_eq_true.mp (List.all_eq_true.mp rows_off_running.1 k (List.mem_range.mpr hk)) l hl
    rcases Nat.lt_or_ge n 23 with hn | hn
    · exact absurd hlow (hoff n hn)
    · have hlen : running.trace.length ≤ 22 := by decide
      have hall : running.trace.take n = running.trace.take 22 := by
        rw [List.take_of_length_le (by omega), List.take_of_length_le hlen]
      exact absurd (hall ▸ hlow) (hoff 22 (by decide))
  · exact beq_iff_eq.mp (List.all_eq_true.mp rows_off_running.2 l (List.mem_of_getElem? hr))

theorem witness_StepKeepsOneRowOn :
    Inv (expired .engine) ∧ OneRowOn (expired .engine) ∧ RowLinesApart (expired .engine) ∧
    ∃ t, step (expired .engine) = .next t :=
  ⟨inv_expired _, oneRowOn_expired _, rowLinesApart_running, _, rfl⟩
theorem witness_EngineLightsExactlyItsRow :
    Inv (expired .engine) ∧ OneRowOn (expired .engine) ∧ (expired .engine).lc = .running ∧
    RowLinesApart (expired .engine) ∧ ∃ t, runAgent .engine (expired .engine) = .next t :=
  ⟨inv_expired _, oneRowOn_expired _, rfl, rowLinesApart_running, _, rfl⟩
theorem witness_ColumnLinesShowTheirCells :
    Inv running1 ∧ running1.lc = .running ∧ 0 < running1.planeCount ∧ direct running1 0 = true ∧
    running1.planeCount = 1 ∧ running1.colPins.Nodup ∧
    ∀ l ∈ running1.colPins, l ∉ running1.rowPins ∧ l ∉ srLines running1 :=
  ⟨inv_running1, rfl, by decide, rfl, rfl, by decide, by decide⟩
theorem witness_SharedColumnsShowHighestPlane :
    Inv running ∧ running.lc = .running ∧ 1 < running.planeCount ∧ running.colPins.length = running.colCount ∧
    direct running 0 = true ∧ (∀ d, 0 < d → d < running.planeCount → direct running d = false) ∧
    running.colPins.Nodup ∧ ∀ l ∈ running.colPins, l ∉ running.rowPins ∧ l ∉ srLines running :=
  ⟨inv_running, rfl, by decide, rfl, rfl,
    fun d h₁ h₂ => by
      obtain rfl : d = 1 := Nat.le_antisymm (Nat.le_of_lt_succ h₂) h₁
      rfl,
    by decide, by decide⟩
theorem witness_ClearedDisplayStaysDark :
    Inv darkened ∧ darkened.lc = .running ∧ (∀ p ∈ darkened.fb, p.2 = 0) ∧
    (∃ t, AgentSteps (fun a => a = .tick ∨ a = .engine) darkened t ∧ t.now = 1) ∧
    0x20 ∈ (wiredTriples darkened).map SrTriple.data ∧
    0x20 ∉ darkened.rowPins ++ (wiredTriples darkened).map SrTriple.clock ++ (wiredTriples darkened).map SrTriple.latch :=
  ⟨inv_darkened, rfl, by decide, ⟨_, .step .tick (.inl rfl) rfl rfl (.refl _), rfl⟩, by decide, by decide⟩
theorem witness_LevelIsWeightedSum : (3 : Nat) < 4 := by decide

/-! ### Witnesses: GPIO and the shift register -/

theorem witness_GpioConfigures :
    (0xFE : LineId) ≠ noneLine ∧ (lineAt fresh 0xFE).level = .z ∧ (lineAt running 0x10).level ≠ .z := by decide
theorem witness_GpioDrives : (0x10 : LineId) ≠ noneLine ∧ (lineAt running 0x10).mode = .output := by decide
theorem witness_DriveOfUnconfiguredLineFaults :
    (0xFE : LineId) ≠ noneLine ∧ (lineAt running 0xFE).mode = .unconfigured := by decide
theorem witness_StepKeepsLevelsFollowTrace :
    LevelsFollowTrace { fresh with schedule := [.tick] } ∧
    ∃ t, step { fresh with schedule := [.tick] } = .next t :=
  ⟨fun _ => rfl, _, rfl⟩
theorem witness_ShiftRegisterPresentsBits :
    let t : SrTriple := ⟨0x20, 0x21, 0x22⟩
    let q : ShiftRegister := ⟨[false, true], [true, true], false, false, true⟩
    t.data ≠ t.clock ∧ t.data ≠ t.latch ∧ t.clock ≠ t.latch ∧ q.clockLevel = false ∧
    q.stages.length = [true, false].length := by decide

end Sys2Proof.Tests
end

section
/-! The choice of the agent that steps (00_scope.md R12, 10_state.md R60). -/

namespace Sys2Proof.Machine

/-- The agent that steps is enabled, whether it comes from the schedule or from the fairness round. -/
theorem chooseTurn_enabled (s : State) : agentEnabled (chooseTurn s).1 s = true := by
  rcases chooseTurn_cases s with ⟨a, rest, hn, hc⟩ | ⟨-, hc⟩ <;> rw [hc]
  · exact nextTurn_enabled hn
  · exact unscheduledAgent_enabled s

/-- Choosing the agent touches only the fields that hold the turns to come (log 2). -/
theorem chooseTurn_frame (s : State) :
    ∃ (rest : List Agent) (r : Round) (n : Nat),
      (chooseTurn s).2 = { s with schedule := rest, round := r, draws := { s.draws with agent := n } } := by
  rcases chooseTurn_cases s with ⟨a, rest, -, hc⟩ | ⟨-, hc⟩ <;> rw [hc]
  · exact ⟨rest, s.round, s.draws.agent, rfl⟩
  · exact ⟨[], roundAfter s, s.draws.agent + 1, rfl⟩

/-- Settles O7: a step runs the chosen agent, which is enabled, at the state that choosing it leaves. -/
theorem everyStepIsOneEnabledTurn : Obligations.EveryStepIsOneEnabledTurn := by
  intro s
  obtain ⟨rest, r, n, hframe⟩ := chooseTurn_frame s
  refine ⟨(chooseTurn s).1, rest, r, n, chooseTurn_enabled s, ?_⟩
  rw [step, hframe]

end Sys2Proof.Machine
end

section
/-! When the agents are enabled and how long one waits for its turn (00_scope.md R12, 10_state.md R52, R60). -/

namespace Sys2Proof.Machine

/-- Settles O6: the scheduled agent, being enabled, is the first one the schedule yields. -/
theorem stepTakesScheduledAgent : Obligations.StepTakesScheduledAgent := by
  intro s a rest hs he
  have hn : nextTurn s s.schedule = some (a, rest) := by rw [hs, nextTurn, if_pos he]
  rw [step, chooseTurn, hn]

/-! ### When each agent is enabled (10_state.md R52, R60) -/

theorem host_enabled_iff {s : State} : agentEnabled .host s = true ↔ s.hostQueue ≠ [] ∧ s.clearIdx = none := by
  simp [agentEnabled, busy]

theorem clear_enabled_iff {s : State} : agentEnabled .clear s = true ↔ s.clearIdx ≠ none := by
  simp [agentEnabled, Option.isSome_iff_ne_none]

theorem tick_enabled_iff {s : State} :
    agentEnabled .tick s = true ↔ ¬(s.params.promptDispatch = true ∧ s.irqPending = true ∧ s.lc = .running) := by
  simp only [agentEnabled, Bool.not_eq_true', ← Bool.not_eq_true, Bool.and_eq_true, decide_eq_true_eq, and_assoc]

theorem engine_enabled_iff {s : State} :
    agentEnabled .engine s = true ↔ s.irqPending = true ∧ s.lc = .running ∧ s.ten = true := by
  simp [agentEnabled, and_assoc]

/-- Settles O9, one agent at a time. -/
theorem agentEnablingConditions : Obligations.AgentEnablingConditions := fun _ =>
  ⟨host_enabled_iff, clear_enabled_iff, tick_enabled_iff, engine_enabled_iff, rfl⟩

/-! ### The wait for a turn -/

/-- The agents the round goes through, those R60 asks weak fairness for. -/
def InRound (a : Agent) : Prop := a = .tick ∨ a = .clear ∨ a = .engine

/-- How many turns of the fairness round pass before agent `a` is owed one, when `o` is owed the next. -/
def turnsUntil (a o : Agent) : Nat :=
  if o = a then 0
  else if owedAfter o = a then 1
  else if owedAfter (owedAfter o) = a then 2
  else 3

theorem turnsUntil_owedAfter_lt {a o : Agent} (ha : InRound a) (ho : o ≠ a) :
    turnsUntil a (owedAfter o) < turnsUntil a o := by
  revert ho
  rcases ha with rfl | rfl | rfl <;> cases o <;> decide

/-- What agent `a` waits for in a round: turns of other agents, then free steps. -/
def roundWait (a : Agent) (r : Round) : Nat ×ₗ Nat := toLex (turnsUntil a r.owed, r.free)

/-- What agent `a` waits for: turns of the schedule, then the round. -/
def wait (a : Agent) (s : State) : Nat ×ₗ Nat ×ₗ Nat := toLex (s.schedule.length, roundWait a s.round)

/-- An unscheduled step is the turn of the owed agent, if it is enabled, or the round goes on. -/
theorem unscheduledAgent_eq_or_roundWait_lt {a : Agent} {s : State} (ha : InRound a) (he : agentEnabled a s = true) :
    unscheduledAgent s = a ∨ roundWait a (roundAfter s) < roundWait a s.round := by
  cases hf : s.round.free with
  | succ n => exact .inr (by simp [roundWait, Prod.Lex.toLex_lt_toLex, roundAfter_succ hf, hf])
  | zero =>
    by_cases ho : s.round.owed = a
    · exact .inl (ho ▸ unscheduledAgent_owed hf (ho ▸ he))
    · rw [roundAfter_zero hf]
      exact .inr (Prod.Lex.toLex_lt_toLex.mpr (.inl (turnsUntil_owedAfter_lt ha ho)))

/-- A step in which an enabled agent of the round does not move shortens its wait. -/
theorem step_moves_or_wait_lt {a : Agent} {s t : State} (ha : InRound a) (he : agentEnabled a s = true)
    (h : step s = .next t) : (chooseTurn s).1 = a ∨ wait a t < wait a s := by
  rcases step_turns h with ⟨hshorter, -⟩ | ⟨hagent, hsched, hround⟩
  · exact .inr (Prod.Lex.toLex_lt_toLex.mpr (.inl hshorter))
  · rw [hagent]
    refine (unscheduledAgent_eq_or_roundWait_lt ha he).imp_right fun hlt => Prod.Lex.toLex_lt_toLex.mpr ?_
    rw [hsched, hround]
    exact (Nat.eq_zero_or_pos s.schedule.length).symm.imp id fun h0 => ⟨h0.symm, hlt⟩

end Sys2Proof.Machine

namespace Sys2Proof.Safety

open Sys2Proof.Machine

/-- An agent of the round that stays enabled moves: its wait cannot go on getting shorter. -/
theorem IsRun.fairTo {run : Nat → State} (hrun : IsRun run) {a : Agent} (ha : InRound a) : FairTo a run := by
  intro n hen
  induction hw : wait a (run n) using WellFoundedLT.induction generalizing n with
  | ind w ih =>
    subst hw
    rcases step_moves_or_wait_lt ha (hen n le_rfl) (hrun n) with hmove | hlt
    · exact ⟨n, le_rfl, hmove⟩
    · obtain ⟨m, hnm, hmove⟩ := ih _ hlt (n + 1) (fun m hm => hen m (by omega)) rfl
      exact ⟨m, by omega, hmove⟩

/-- Settles O8, by induction on what the agent still waits for. -/
theorem everyRunIsWeaklyFair : Obligations.EveryRunIsWeaklyFair := fun _ hrun =>
  ⟨hrun.fairTo (.inl rfl), hrun.fairTo (.inr (.inl rfl)), hrun.fairTo (.inr (.inr rfl))⟩

end Sys2Proof.Safety
end

section
/-! What a command and an agent may leave, said once: the effects of the sixteen commands as one case split, and the
other agents' steps as one update each. -/

namespace Sys2Proof.Machine

/-! ### The HOST's commands -/

theorem checkReserved_ok {w mask bits : CommandWord} {i j : Instr} (h : checkReserved w mask bits i = .ok j) :
    j = i := by
  unfold checkReserved at h
  split at h <;> cases h
  rfl

/-- A command word decodes to a host command, never to a GPIO primitive (30_encoding.md R97). -/
theorem decodeCommand_isCommand {w : CommandWord} {i : Instr} (h : decodeCommand w = .ok i) : i.isCommand = true := by
  unfold decodeCommand at h
  split at h
  case h_17 => cases h
  all_goals
    rw [checkReserved_ok h]
    rfl

/-- Reading a quad after replacing one element. -/
theorem Quad.get?_put {α : Type} (q : Quad α) (i : BitVec 2) (v : α) (c : Nat) :
    (q.put i v).get? c = if c = i.toNat then some v else q.get? c := by
  have hi : i = 0 ∨ i = 1 ∨ i = 2 ∨ i = 3 := by decide +revert
  rcases hi with rfl | rfl | rfl | rfl <;> rcases c with _ | _ | _ | _ | c <;> simp [Quad.put, Quad.get?]

/-- What command `i` may leave of state `s`. -/
inductive CommandEffect (i : Instr) (s : State) : State → Prop where
  /-- Nothing but the response: a refusal, a read, a command without effect. -/
  | answered (st : Status) (d : ResponseData) : CommandEffect i s (respond st d s)
  /-- A fatal halt, of CONSTRUCT or of BEGIN (60_exceptions.md R206). -/
  | halted (d : HaltCause) : s.lc = .unconstructed ∨ s.lc = .constructed → CommandEffect i s (halt d s)
  /-- CONSTRUCT (43_controller_config.md R168). -/
  | allocated (r : BitVec 6) (c : BitVec 7) (p : BitVec 3) : s.lc = .unconstructed →
      geometryOk r.toNat c.toNat p.toNat = true → r.toNat * c.toNat ≤ s.params.fbWords →
      CommandEffect i s (respond .ok 0 (allocate r c p s))
  /-- ROWPIN, COLPIN, SRPINS and PERIOD (43_controller_config.md R172 to R178): no table outgrows its bound, and the
  triples from PLANES on stay. -/
  | configured (rp cp : List LineId) (sp : Quad SrTriple) (b : BitVec 24) : s.lc = .constructed →
      (s.rowPins.length ≤ 32 → rp.length ≤ 32) → (s.colPins.length ≤ 256 → cp.length ≤ 256) →
      (∀ c, s.planeCount ≤ c → sp.get? c = s.srPins.get? c) →
      CommandEffect i s (respond .ok 0 { s with rowPins := rp, colPins := cp, srPins := sp, base := b })
  /-- FBWR (41_framebuffer.md R128). -/
  | written (k : Nat) (v : CellValue) (u : State) : memWrite k v s = .ok u → CommandEffect i s (respond .ok 0 u)
  /-- CLEAR (41_framebuffer.md R131). -/
  | clearing : s.lc = .constructed ∨ s.lc = .running →
      CommandEffect i s { s with clearIdx := some 0, response := none }
  /-- BEGIN (43_controller_config.md R181 to R189). -/
  | launched (u : State) : i = .begin → s.lc = .constructed → beginFailure s = none →
      emitAll (beginOps s) s = .ok u →
      CommandEffect i s (respond .ok 0 (launch { u with ptable := periodTable u.base }))

theorem length_concat_le {α : Type} {l : List α} {a : α} {n : Nat} (hn : l.length ≠ n) (h : l.length ≤ n) :
    (l ++ [a]).length ≤ n := by
  rw [List.length_append, List.length_singleton]
  omega

/-- Each command has one of the effects. -/
theorem exec_effect {i : Instr} {s t : State} (hi : i.isCommand = true) (h : exec i s = .next t) :
    CommandEffect i s t := by
  cases i with
  | construct r c p =>
    rcases execConstruct_next h with ⟨st, rfl⟩ | ⟨hl, rfl | rfl⟩ | ⟨hl, hg, hw, rfl⟩
    · exact .answered st 0
    · exact .halted _ (.inl hl)
    · exact .halted _ (.inl hl)
    · exact .allocated r c p hl hg hw
  | rowpin pin =>
    rcases execRowpin_next h with ⟨st, rfl⟩ | ⟨hl, hn, rfl⟩
    · exact .answered st 0
    · exact .configured _ s.colPins s.srPins s.base hl (length_concat_le hn) id fun _ _ => rfl
  | colpin pin =>
    rcases execColpin_next h with ⟨st, rfl⟩ | ⟨hl, hn, rfl⟩
    · exact .answered st 0
    · exact .configured s.rowPins _ s.srPins s.base hl id (length_concat_le hn) fun _ _ => rfl
  | srpins plane d k l =>
    rcases execSrpins_next h with ⟨st, rfl⟩ | ⟨hl, hp, rfl⟩
    · exact .answered st 0
    · exact .configured s.rowPins s.colPins _ s.base hl id id fun c hc => by
        rw [Quad.get?_put, if_neg (by omega)]
  | period us =>
    rcases execPeriod_next h with ⟨st, rfl⟩ | ⟨hl, rfl⟩
    · exact .answered st 0
    · exact .configured s.rowPins s.colPins s.srPins us hl id id fun _ _ => rfl
  | begin =>
    rcases execBegin_next h with ⟨st, rfl⟩ | ⟨hl, d, -, rfl⟩ | ⟨hl, hv, u, hu, rfl⟩
    · exact .answered st 0
    · exact .halted d (.inr hl)
    · exact .launched u rfl hl hv hu
  | clear =>
    rcases execClear_next h with ⟨st, rfl⟩ | ⟨hl, rfl⟩
    · exact .answered st 0
    · exact .clearing hl
  | writedisplay =>
    obtain ⟨st, rfl⟩ := execWritedisplay_next h
    exact .answered st 0
  | fbwr row col v =>
    rcases execFbwr_next h with ⟨st, rfl⟩ | ⟨-, -, u, hu, rfl⟩
    · exact .answered st 0
    · exact .written _ v u hu
  | fbrd row col =>
    obtain ⟨st, d, rfl, -⟩ := execFbrd_next h
    exact .answered st d
  | rdruntime | rdlatency | rdstatus | rdperiod _ | rdcursor | rdtables =>
    cases h
    exact .answered .ok _
  | gpioCfgOut _ | gpioDriveLow _ | gpioDriveHigh _ => cases hi

/-- The HOST agent on a word: the effect of the command it decodes to, or ERR_ILLEGAL (30_encoding.md R84). -/
theorem acceptWord_effect {w : CommandWord} {s t : State} (h : acceptWord w s = .next t) :
    (∃ i, decodeCommand w = .ok i ∧ CommandEffect i s t) ∨ t = respond .errIllegal 0 s := by
  unfold acceptWord at h
  split at h
  · exact .inl ⟨_, ‹_›, exec_effect (decodeCommand_isCommand ‹_›) h⟩
  · cases h
    exact .inr rfl

/-- The HOST agent takes the word at the head of the host's queue. -/
theorem hostStep_next {s t : State} (h : hostStep s = .next t) :
    ∃ w q, s.hostQueue = w :: q ∧ acceptWord w { s with hostQueue := q } = .next t := by
  unfold hostStep at h
  split at h
  · cases h
  · exact ⟨_, _, ‹_›, h⟩

/-- A BEGIN that launches, as one update of the state. -/
theorem launched_eq {s u : State} (hu : emitAll (beginOps s) s = .ok u) :
    respond .ok 0 (launch { u with ptable := periodTable u.base }) =
      { s with
        lc := .running, ptable := periodTable s.base, curRow := 0, curPlane := 0, slot := 0, count := 0,
        period := ((periodTable s.base).at 0).setWidth 32, ten := true, irqPending := false, lastStart := s.now,
        lines := u.lines, trace := u.trace, response := some ⟨.ok, 0⟩,
        draws := { s.draws with gpio := u.draws.gpio } } := by
  obtain ⟨L, g, rfl⟩ := emitAll_exists hu
  rfl

/-! ### The other agents (10_state.md R55) -/

theorem tickStep_frame (s : State) :
    tickStep s = { s with
      now := (tickStep s).now, count := (tickStep s).count, irqPending := (tickStep s).irqPending } := by
  rcases tickStep_cases s with ⟨-, e⟩ | ⟨-, -, e⟩ | ⟨-, -, e⟩ <;> rw [e]

theorem clearStep_frame {s t : State} (h : clearStep s = .next t) :
    t = { s with fb := t.fb, clearIdx := t.clearIdx, response := t.response } := by
  obtain ⟨i, u, -, hu, ⟨-, rfl⟩ | ⟨-, rfl⟩⟩ := clearStep_next h <;> obtain ⟨m, -, rfl⟩ := memWrite_eq_ok.mp hu <;> rfl

/-- An ENGINE step as one update of the state. -/
theorem engineStep_eq {s t : State} (h : engineStep s = .next t) :
    ∃ ops u, invocationOps s = .ok ops ∧ emitAll ops (engineStart s) = .ok u ∧
      t = { s with
        irqPending := false, latency := s.now - s.lastStart, lastStart := s.now,
        period := if s.curRow = 0 then periodEntry s s.curPlane else s.period,
        slot := if s.curRow = 0 then s.curPlane else s.slot,
        curRow := if s.curRow.toNat + 1 = s.rowCount then 0 else s.curRow + 1,
        curPlane := if s.curRow.toNat + 1 = s.rowCount then s.curPlane + 1 else s.curPlane,
        lines := u.lines, trace := u.trace, runtime := Config.runtimeDraw s.draws.runtime,
        draws := { s.draws with gpio := u.draws.gpio, runtime := s.draws.runtime + 1 } } := by
  obtain ⟨ops, u, hops, hu, rfl⟩ := engineStep_next.mp h
  refine ⟨ops, u, invocationOps_engineStart s ▸ hops, hu, ?_⟩
  obtain ⟨L, g, rfl⟩ := emitAll_exists hu
  rw [advanceCursor_eq, engineStart_eq]
  rfl

theorem engineStep_frame {s t : State} (h : engineStep s = .next t) :
    t = { s with
      irqPending := false, curRow := t.curRow, curPlane := t.curPlane, slot := t.slot, period := t.period,
      lastStart := t.lastStart, runtime := t.runtime, latency := t.latency, lines := t.lines, trace := t.trace,
      draws := { s.draws with gpio := t.draws.gpio, runtime := t.draws.runtime } } := by
  obtain ⟨ops, u, -, -, rfl⟩ := engineStep_eq h
  rfl

end Sys2Proof.Machine
end

section
/-! What commands and agents leave unchanged: the write accesses of 10_state.md R54, R55 and R58. -/

namespace Sys2Proof.Machine

/-! ### The HOST's commands -/

/-- No command writes the time base, the measurements or the environment. -/
theorem CommandEffect.frame {i : Instr} {s t : State} (h : CommandEffect i s t) :
    t.now = s.now ∧ t.runtime = s.runtime ∧ t.latency = s.latency ∧ t.hostQueue = s.hostQueue ∧
      t.schedule = s.schedule ∧ t.round = s.round ∧ t.params = s.params := by
  cases h with
  | written k v u hu =>
    obtain ⟨m, -, rfl⟩ := memWrite_eq_ok.mp hu
    exact ⟨rfl, rfl, rfl, rfl, rfl, rfl, rfl⟩
  | launched u _ _ _ hu =>
    rw [launched_eq hu]
    exact ⟨rfl, rfl, rfl, rfl, rfl, rfl, rfl⟩
  | answered | halted | allocated | configured | clearing => exact ⟨rfl, rfl, rfl, rfl, rfl, rfl, rfl⟩

/-- Only BEGIN writes the period table, the cursor, the timer's registers, the lines and TRACE. -/
theorem CommandEffect.frame_of_ne_begin {i : Instr} {s t : State} (h : CommandEffect i s t) (hi : i ≠ .begin) :
    t.ptable = s.ptable ∧ t.curRow = s.curRow ∧ t.curPlane = s.curPlane ∧ t.slot = s.slot ∧ t.count = s.count ∧
      t.period = s.period ∧ t.lastStart = s.lastStart ∧ t.lines = s.lines ∧ t.trace = s.trace := by
  cases h with
  | written k v u hu =>
    obtain ⟨m, -, rfl⟩ := memWrite_eq_ok.mp hu
    exact ⟨rfl, rfl, rfl, rfl, rfl, rfl, rfl, rfl, rfl⟩
  | launched u hb => exact absurd hb hi
  | answered | halted | allocated | configured | clearing => exact ⟨rfl, rfl, rfl, rfl, rfl, rfl, rfl, rfl, rfl⟩

/-- Only BEGIN and a halt write TEN and IRQ_PENDING. -/
theorem CommandEffect.timer_of_not_halt {i : Instr} {s t : State} (h : CommandEffect i s t) (hi : i ≠ .begin)
    (ht : t.lc ≠ .halted ∨ s.lc = .halted) : t.ten = s.ten ∧ t.irqPending = s.irqPending := by
  cases h with
  | halted d hl => rcases hl with hl | hl <;> simp [hl] at ht
  | written k v u hu =>
    obtain ⟨m, -, rfl⟩ := memWrite_eq_ok.mp hu
    exact ⟨rfl, rfl⟩
  | launched u hb => exact absurd hb hi
  | answered | allocated | configured | clearing => exact ⟨rfl, rfl⟩

/-- Geometry, tables and periods (10_state.md R54). -/
def configuration (s : State) :
    BitVec 6 × BitVec 7 × BitVec 3 × List LineId × List LineId × Quad SrTriple × BitVec 24 × Quad (BitVec 27) :=
  (s.rows, s.cols, s.planes, s.rowPins, s.colPins, s.srPins, s.base, s.ptable)

/-- No command writes the configuration in RUNNING or HALTED. -/
theorem CommandEffect.configuration_eq {i : Instr} {s t : State} (h : CommandEffect i s t)
    (hl : s.lc = .running ∨ s.lc = .halted) : configuration t = configuration s := by
  cases h with
  | answered | clearing => rfl
  | written k v u hu =>
    obtain ⟨m, -, rfl⟩ := memWrite_eq_ok.mp hu
    rfl
  | halted _ hs => rcases hs with hs | hs <;> simp [hs] at hl
  | allocated _ _ _ hs | configured _ _ _ _ hs | launched _ _ hs => simp [hs] at hl

/-! ### Frames of every agent -/

theorem acceptWord_params {w : CommandWord} {s t : State} (h : acceptWord w s = .next t) : t.params = s.params := by
  rcases acceptWord_effect h with ⟨i, -, he⟩ | rfl
  · obtain ⟨-, -, -, -, -, -, hparams⟩ := he.frame
    exact hparams
  · rfl

theorem acceptWord_configuration {w : CommandWord} {s t : State} (h : acceptWord w s = .next t)
    (hl : s.lc = .running ∨ s.lc = .halted) : configuration t = configuration s := by
  rcases acceptWord_effect h with ⟨i, -, he⟩ | rfl
  · exact he.configuration_eq hl
  · rfl

/-- No agent writes the parameters of the machine (10_state.md R58). -/
theorem runAgent_params {a : Agent} {s t : State} (h : runAgent a s = .next t) : t.params = s.params := by
  cases a with
  | host =>
    obtain ⟨w, q, -, hw⟩ := hostStep_next h
    exact (acceptWord_params hw :)
  | clear => rw [clearStep_frame h]
  | tick =>
    cases h
    rw [tickStep_frame]
  | engine => rw [engineStep_frame h]
  | reset =>
    cases h
    rfl

/-- In RUNNING and HALTED only RESET writes the configuration. -/
theorem runAgent_configuration {a : Agent} {s t : State} (ha : a ≠ .reset) (hl : s.lc = .running ∨ s.lc = .halted)
    (h : runAgent a s = .next t) : configuration t = configuration s := by
  cases a with
  | host =>
    obtain ⟨w, q, -, hw⟩ := hostStep_next h
    exact (acceptWord_configuration hw hl :)
  | clear =>
    rw [clearStep_frame h]
    rfl
  | tick =>
    cases h
    rw [tickStep_frame]
    rfl
  | engine =>
    rw [engineStep_frame h]
    rfl
  | reset => exact absurd rfl ha

/-- Settles O14: choosing a turn and each agent's step leave the parameters. -/
theorem parametersNeverChange : Obligations.ParametersNeverChange := by
  intro s t h
  obtain ⟨rest, r, n, hframe⟩ := chooseTurn_frame s
  have hparams := runAgent_params h
  rw [hframe] at hparams
  exact ⟨hparams, fbWords_pos t.params⟩

/-- Settles O40: from RUNNING or HALTED no agent but RESET writes the configuration. -/
theorem configurationClosedAfterBegin : Obligations.ConfigurationClosedAfterBegin := by
  intro s t h hl ha
  obtain ⟨rest, r, n, hframe⟩ := chooseTurn_frame s
  have hconf := runAgent_configuration ha (hframe ▸ hl) h
  rw [hframe] at hconf
  simpa [configuration] using hconf

/-- Settles O41: the agents' frames, and for HOST those of the decoded command. -/
theorem agentWriteAccess : Obligations.AgentWriteAccess := by
  refine fun s t => ⟨?_, clearStep_frame, engineStep_frame, fun w h => ?_⟩
  · rintro ⟨⟩
    exact tickStep_frame s
  · rcases acceptWord_effect h with ⟨i, hw, he⟩ | rfl
    · obtain ⟨hnow, hruntime, hlatency, hqueue, hschedule, hround, -⟩ := he.frame
      refine ⟨hnow, hruntime, hlatency, hqueue, hschedule, hround, fun hb => ?_⟩
      have hi : i ≠ .begin := fun hi => hb (hi ▸ hw)
      obtain ⟨hptable, hrow, hplane, hslot, hcount, hperiod, hstart, hlines, htrace⟩ := he.frame_of_ne_begin hi
      exact ⟨hptable, hrow, hplane, hslot, hcount, hperiod, hstart, hlines, htrace, he.timer_of_not_halt hi⟩
    · simp

end Sys2Proof.Machine
end

section
/-! The invariant of every run: it holds after reset and every step keeps it (10_state.md R26 to R53). -/

namespace Sys2Proof.Safety

open Sys2Proof.Machine

/-! ### Reset -/

/-- The invariant holds after reset, and after RESET of a machine with any parameters. -/
theorem Inv.reset (p : Params) : Inv { State.reset with params := p } where
  cells := rfl
  capacity := Nat.zero_le _
  linesRising := List.Pairwise.nil
  linesDriven := nofun
  rowTable := Nat.zero_le _
  colTable := Nat.zero_le _
  geometryNone := fun _ => ⟨rfl, rfl, rfl⟩
  geometryLegal := nofun
  geometryHalted := nofun
  unusedTriples := fun c _ hc => by interval_cases c <;> rfl
  clearing := nofun
  diagnosis := ⟨iff_of_false nofun (not_not.mpr rfl), Nat.zero_le _⟩
  timerOn := iff_of_false nofun nofun
  noRequest := fun _ => rfl
  idle := fun _ => ⟨rfl, rfl, rfl, rfl, rfl⟩
  validated := nofun
  periods := nofun
  cursor := nofun
  sweep := nofun
  ready := nofun
  traceEvents := nofun

/-- Settles O11: it holds after reset whatever the parameters are. -/
theorem invHoldsAtReset : Obligations.InvHoldsAtReset := Inv.reset Config.params

/-! ### What the invariant says of one lifecycle state -/

theorem Inv.geometryZero_or_legal {s : State} (h : Inv s) : GeometryZero s ∨ GeometryLegal s := by
  cases hl : s.lc with
  | unconstructed => exact .inl (h.geometryNone hl)
  | constructed => exact .inr (h.geometryLegal (.inl hl))
  | running => exact .inr (h.geometryLegal (.inr hl))
  | halted => exact h.geometryHalted hl

theorem Inv.diag_eq_zero {s : State} (h : Inv s) (hl : s.lc ≠ .halted) : s.diag = 0 :=
  not_not.mp fun hd => hl (h.diagnosis.1.mpr hd)

theorem GeometryLegal.cellCount_pos {s : State} (h : GeometryLegal s) : 0 < s.cellCount := by
  obtain ⟨hrow, -, hcol, -⟩ := h
  exact Nat.mul_pos hrow hcol

/-! ### The HOST's commands -/

theorem geometryOk_iff {r c p : Nat} :
    geometryOk r c p = true ↔ 1 ≤ r ∧ r ≤ 32 ∧ 1 ≤ c ∧ c ≤ 64 ∧ 1 ≤ p ∧ p ≤ 4 := by
  simp [geometryOk, and_assoc]

/-- The halt codes are 1 to 7 (60_exceptions.md R207). -/
theorem HaltCause.code_bounds (d : HaltCause) : d.code ≠ 0 ∧ d.code.toNat ≤ 7 := by
  cases d <;> decide

/-- A halt before RUNNING keeps the invariant. -/
theorem Inv.halt {s : State} (h : Inv s) (hc : s.clearIdx = none) (hl : s.lc ≠ .running) (d : HaltCause) :
    Inv (halt d s) where
  cells := h.cells
  capacity := h.capacity
  linesRising := h.linesRising
  linesDriven := h.linesDriven
  rowTable := h.rowTable
  colTable := h.colTable
  geometryNone := nofun
  geometryLegal := nofun
  geometryHalted := fun _ => h.geometryZero_or_legal
  unusedTriples := h.unusedTriples
  clearing := fun _ hi => absurd (hc.symm.trans hi) nofun
  diagnosis := ⟨iff_of_true rfl (HaltCause.code_bounds d).1, (HaltCause.code_bounds d).2⟩
  timerOn := iff_of_false nofun nofun
  noRequest := fun _ => rfl
  idle := fun _ => h.idle hl
  validated := nofun
  periods := nofun
  cursor := nofun
  sweep := nofun
  ready := nofun
  traceEvents := h.traceEvents

/-- A CONSTRUCT that allocates keeps the invariant. -/
theorem Inv.allocate {s : State} (h : Inv s) (hc : s.clearIdx = none) (hl : s.lc = .unconstructed) {r : BitVec 6}
    {c : BitVec 7} {p : BitVec 3} (hg : geometryOk r.toNat c.toNat p.toNat = true)
    (hw : r.toNat * c.toNat ≤ s.params.fbWords) : Inv (allocate r c p s) where
  cells := Memory.keys_drawn _ _
  capacity := hw
  linesRising := h.linesRising
  linesDriven := h.linesDriven
  rowTable := h.rowTable
  colTable := h.colTable
  geometryNone := nofun
  geometryLegal := fun _ => geometryOk_iff.mp hg
  geometryHalted := nofun
  unusedTriples := fun i _ hi => by
    obtain ⟨-, -, hp⟩ := h.geometryNone hl
    exact h.unusedTriples i (by rw [State.planeCount, hp]; exact Nat.zero_le i) hi
  clearing := fun _ hi => absurd (hc.symm.trans hi) nofun
  diagnosis := ⟨iff_of_false nofun (not_not.mpr (h.diag_eq_zero (by simp [hl]))), h.diagnosis.2⟩
  timerOn := iff_of_false (fun ht => by simpa [hl] using h.timerOn.mp ht) nofun
  noRequest := fun _ => h.noRequest (by simp [hl])
  idle := fun _ => h.idle (by simp [hl])
  validated := nofun
  periods := nofun
  cursor := nofun
  sweep := nofun
  ready := nofun
  traceEvents := h.traceEvents

/-- Before BEGIN the tables, the triples of planes below PLANES and BASE may change. -/
theorem Inv.configure {s : State} (h : Inv s) (hl : s.lc = .constructed) {rp cp : List LineId} {sp : Quad SrTriple}
    {b : BitVec 24} (hr : rp.length ≤ 32) (hc : cp.length ≤ 256)
    (hs : ∀ c, s.planeCount ≤ c → sp.get? c = s.srPins.get? c) :
    Inv { s with rowPins := rp, colPins := cp, srPins := sp, base := b } where
  cells := h.cells
  capacity := h.capacity
  linesRising := h.linesRising
  linesDriven := h.linesDriven
  rowTable := hr
  colTable := hc
  geometryNone := h.geometryNone
  geometryLegal := h.geometryLegal
  geometryHalted := h.geometryHalted
  unusedTriples := fun i hi hi4 => (hs i hi).trans (h.unusedTriples i hi hi4)
  clearing := h.clearing
  diagnosis := h.diagnosis
  timerOn := h.timerOn
  noRequest := h.noRequest
  idle := h.idle
  validated := fun hrun => absurd (hl.symm.trans hrun) nofun
  periods := fun hrun => absurd (hl.symm.trans hrun) nofun
  cursor := fun hrun => absurd (hl.symm.trans hrun) nofun
  sweep := fun hrun => absurd (hl.symm.trans hrun) nofun
  ready := fun hrun => absurd (hl.symm.trans hrun) nofun
  traceEvents := h.traceEvents

theorem cfgOut_mem_planeInitOps {s : State} {c : Nat} {tr : SrTriple} (ht : s.srPins.get? c = some tr)
    (hw : tr.wired = true) {l : LineId} (hl : l = tr.data ∨ l = tr.clock ∨ l = tr.latch) :
    .cfgOut l ∈ planeInitOps s c := by
  simp only [planeInitOps, ht, hw, if_true, configure]
  rcases hl with rfl | rfl | rfl <;> simp

/-- BEGIN configures every line in use (40_gpio_shiftreg.md R115, 43_controller_config.md R186). -/
theorem cfgOut_mem_beginOps {s : State} {l : LineId} (hl : l ∈ usedLines s) : .cfgOut l ∈ beginOps s := by
  simp only [usedLines, List.mem_append, mem_srLines, mem_wiredTriples] at hl
  simp only [beginOps, List.mem_append, List.mem_flatMap, List.mem_range]
  rcases hl with (hrow | hcol) | ⟨tr, ⟨c, hc, ht, hw⟩, hsr⟩
  · exact .inl (.inl ⟨l, hrow, List.mem_cons_self⟩)
  · exact .inl (.inr ⟨l, hcol, List.mem_cons_self⟩)
  · exact .inr ⟨c, hc, cfgOut_mem_planeInitOps ht hw hsr⟩

/-- A BEGIN that launches keeps the invariant. -/
theorem Inv.launch {s u : State} (h : Inv s) (hc : s.clearIdx = none) (hl : s.lc = .constructed)
    (hv : beginFailure s = none) (hu : emitAll (beginOps s) s = .ok u) :
    Inv (Machine.respond .ok 0 (launch { u with ptable := periodTable u.base })) := by
  have hrising := emitAll_linesRising hu h.linesRising
  have hdriven := emitAll_linesDriven hu h.linesDriven
  have htrace := emitAll_traceEvents hu h.traceEvents
  rw [launched_eq hu]
  exact {
    cells := h.cells
    capacity := h.capacity
    linesRising := hrising
    linesDriven := hdriven
    rowTable := h.rowTable
    colTable := h.colTable
    geometryNone := nofun
    geometryLegal := fun _ => h.geometryLegal (.inl hl)
    geometryHalted := nofun
    unusedTriples := h.unusedTriples
    clearing := fun _ hi => absurd (hc.symm.trans hi) nofun
    diagnosis := ⟨iff_of_false nofun (not_not.mpr (h.diag_eq_zero (by simp [hl]))), h.diagnosis.2⟩
    timerOn := iff_of_true rfl rfl
    noRequest := fun hn => absurd rfl hn
    idle := fun hn => absurd rfl hn
    validated := fun _ => hv
    periods := fun _ => ⟨rfl, rfl⟩
    cursor := fun _ => (h.geometryLegal (.inl hl)).1
    sweep := fun _ => ⟨fun hn => absurd rfl hn, fun _ => .inr ⟨rfl, rfl⟩⟩
    ready := fun _ l hused =>
      have hcfg := cfgOut_mem_beginOps (s := s) hused
      ⟨emitAll_lines_exist hu _ hcfg, emitAll_keeps_mode hu (.inl ⟨_, hcfg, rfl⟩)⟩
    traceEvents := htrace }

/-- Every effect of a command keeps the invariant while no CLEAR is in progress. -/
theorem Inv.commandEffect {i : Instr} {s t : State} (h : Inv s) (hc : s.clearIdx = none) (he : CommandEffect i s t) :
    Inv t := by
  cases he with
  | answered st d => exact h.respond hc st d
  | halted d hl => exact h.halt hc (by rcases hl with hl | hl <;> simp [hl]) d
  | allocated r c p hl hg hw => exact (h.allocate hc hl hg hw).respond hc _ _
  | configured rp cp sp b hl hr hcp hs => exact (h.configure hl (hr h.rowTable) (hcp h.colTable) hs).respond hc _ _
  | written k v u hu =>
    refine (h.memWrite hu).respond ?_ _ _
    obtain ⟨m, -, rfl⟩ := memWrite_eq_ok.mp hu
    exact hc
  | clearing hl =>
    refine h.clearing_response fun i hi => ?_
    cases hi
    exact ⟨hl, (h.geometryLegal hl).cellCount_pos, rfl⟩
  | launched u _ hl hv hu => exact h.launch hc hl hv hu

theorem Inv.acceptWord {w : CommandWord} {s t : State} (h : Inv s) (hc : s.clearIdx = none)
    (ht : acceptWord w s = .next t) : Inv t := by
  rcases acceptWord_effect ht with ⟨i, -, he⟩ | rfl
  · exact h.commandEffect hc he
  · exact h.respond hc _ _

/-! ### The other agents -/

theorem Inv.clearStep {s t : State} (h : Inv s) (ht : clearStep s = .next t) : Inv t := by
  obtain ⟨i, u, hi, hu, ht⟩ := clearStep_next ht
  obtain ⟨hl, hlt, hresp⟩ := h.clearing i hi
  have hinv := h.memWrite hu
  obtain ⟨m, -, rfl⟩ := memWrite_eq_ok.mp hu
  rcases ht with ⟨-, rfl⟩ | ⟨hne, rfl⟩
  · exact hinv.clearing_response nofun
  · refine hinv.clearing_response (r := s.response) fun j hj => ?_
    cases hj
    exact ⟨hl, Nat.lt_of_le_of_ne hlt hne, hresp⟩

/-- The time base may go on. -/
theorem Inv.now {s : State} (h : Inv s) (n : Micros) : Inv { s with now := n } :=
  ⟨h.cells, h.capacity, h.linesRising, h.linesDriven, h.rowTable, h.colTable, h.geometryNone, h.geometryLegal,
    h.geometryHalted, h.unusedTriples, h.clearing, h.diagnosis, h.timerOn, h.noRequest, h.idle, h.validated,
    h.periods, h.cursor, h.sweep, h.ready, h.traceEvents⟩

/-- In RUNNING the period counter may take any value and the request may come or go. -/
theorem Inv.timer {s : State} (h : Inv s) (hl : s.lc = .running) (c : Micros) (q : Bool) :
    Inv { s with count := c, irqPending := q } :=
  ⟨h.cells, h.capacity, h.linesRising, h.linesDriven, h.rowTable, h.colTable, h.geometryNone, h.geometryLegal,
    h.geometryHalted, h.unusedTriples, h.clearing, h.diagnosis, h.timerOn, fun hn => absurd hl hn,
    fun hn => absurd hl hn, h.validated, h.periods, h.cursor, h.sweep, h.ready, h.traceEvents⟩

theorem Inv.tickStep {s : State} (h : Inv s) : Inv (tickStep s) := by
  rcases tickStep_cases s with ⟨-, e⟩ | ⟨hten, -, e⟩ | ⟨hten, -, e⟩ <;> rw [e]
  · exact h.now _
  · exact (h.timer (h.timerOn.mp hten) 0 true).now (s.now + 1)
  · exact (h.timer (h.timerOn.mp hten) (s.count + 1) s.irqPending).now (s.now + 1)

/-- A cursor within the rows does not wrap around its five bits. -/
theorem Inv.curRow_succ_toNat {s : State} (h : Inv s) (hl : s.lc = .running) (hn : s.curRow.toNat + 1 ≠ s.rowCount) :
    (s.curRow + 1).toNat = s.curRow.toNat + 1 := by
  have hrow := h.cursor hl
  obtain ⟨-, hmax, -⟩ := h.geometryLegal (.inr hl)
  rw [BitVec.toNat_add]
  exact Nat.mod_eq_of_lt (show s.curRow.toNat + 1 < 32 by omega)

/-- Step 7 keeps the cursor within the rows (42_refresh_engine.md R152). -/
theorem Inv.advance_curRow_lt {s : State} (h : Inv s) (hl : s.lc = .running) :
    (if s.curRow.toNat + 1 = s.rowCount then 0 else s.curRow + 1 : BitVec 5).toNat < s.rowCount := by
  have hrow := h.cursor hl
  split
  · exact (h.geometryLegal (.inr hl)).1
  · rw [h.curRow_succ_toNat hl ‹_›]
    omega

/-- Step 7 goes on to the next bit-plane exactly when it comes back to row 0. -/
theorem Inv.advance_curPlane {s : State} (h : Inv s) (hl : s.lc = .running) {r : BitVec 5} {b : BitVec 2}
    (hr : r = if s.curRow.toNat + 1 = s.rowCount then 0 else s.curRow + 1)
    (hb : b = if s.curRow.toNat + 1 = s.rowCount then s.curPlane + 1 else s.curPlane) :
    (r ≠ 0 → s.curPlane = b) ∧ (r = 0 → b = s.curPlane + 1) := by
  by_cases hlast : s.curRow.toNat + 1 = s.rowCount
  · rw [if_pos hlast] at hr hb
    exact ⟨fun hn => absurd hr hn, fun _ => hb⟩
  · rw [if_neg hlast] at hr hb
    refine ⟨fun _ => hb.symm, fun h0 => ?_⟩
    have hsucc := h.curRow_succ_toNat hl hlast
    rw [← hr, h0] at hsucc
    cases hsucc

theorem Inv.engineStep {s t : State} (h : Inv s) (hl : s.lc = .running) (ht : engineStep s = .next t) : Inv t := by
  obtain ⟨ops, u, -, hu, rfl⟩ := engineStep_eq ht
  have hrising := emitAll_linesRising hu (by simpa using h.linesRising)
  have hdriven := emitAll_linesDriven hu (by simpa using h.linesDriven)
  have htrace := emitAll_traceEvents hu (by simpa using h.traceEvents)
  obtain ⟨hptable, hperiod⟩ := h.periods hl
  obtain ⟨hmid, -⟩ := h.sweep hl
  have hslot : (if s.curRow = 0 then s.curPlane else s.slot) = s.curPlane := by
    split
    · rfl
    · exact hmid ‹_›
  have hperiod' : (if s.curRow = 0 then periodEntry s s.curPlane else s.period) = periodEntry s s.curPlane := by
    split
    · rfl
    · rw [hperiod, hmid ‹_›]
  rw [hslot, hperiod']
  exact {
    cells := h.cells
    capacity := h.capacity
    linesRising := hrising
    linesDriven := hdriven
    rowTable := h.rowTable
    colTable := h.colTable
    geometryNone := h.geometryNone
    geometryLegal := h.geometryLegal
    geometryHalted := h.geometryHalted
    unusedTriples := h.unusedTriples
    clearing := h.clearing
    diagnosis := h.diagnosis
    timerOn := h.timerOn
    noRequest := fun _ => rfl
    idle := fun hn => absurd hl hn
    validated := h.validated
    periods := fun _ => ⟨hptable, rfl⟩
    cursor := fun _ => h.advance_curRow_lt hl
    sweep := fun _ => (h.advance_curPlane hl rfl rfl).imp_right fun hend h0 => .inl (hend h0)
    ready := fun _ l hused =>
      have hready := h.ready hl l hused
      ⟨hready.1, emitAll_keeps_mode hu (.inr (by rw [lineAt_congr (engineStart_lines s)]; exact hready.2))⟩
    traceEvents := htrace }

/-- The turns to come do not matter to whether an agent is enabled. -/
theorem chooseTurn_keeps_enabled (s : State) (a : Agent) : agentEnabled a (chooseTurn s).2 = agentEnabled a s := by
  obtain ⟨rest, r, n, hframe⟩ := chooseTurn_frame s
  rw [hframe]
  cases a <;> rfl

theorem Inv.chooseTurn {s : State} (h : Inv s) : Inv (chooseTurn s).2 := by
  obtain ⟨rest, r, n, hframe⟩ := chooseTurn_frame s
  rw [hframe]
  exact h.environment s.hostQueue _ rest r

/-- The step of an enabled agent keeps the invariant. -/
theorem Inv.runAgent {a : Agent} {s t : State} (h : Inv s) (ha : agentEnabled a s = true)
    (ht : runAgent a s = .next t) : Inv t := by
  cases a with
  | host =>
    obtain ⟨-, hc⟩ := host_enabled_iff.mp ha
    obtain ⟨w, q, -, hw⟩ := hostStep_next ht
    exact (h.environment q s.draws s.schedule s.round).acceptWord hc hw
  | clear => exact h.clearStep ht
  | tick =>
    cases ht
    exact h.tickStep
  | engine =>
    obtain ⟨-, hl, -⟩ := engine_enabled_iff.mp ha
    exact h.engineStep hl ht
  | reset =>
    cases ht
    exact (Inv.reset s.params).environment _ _ _ _

/-- Settles O12: choosing a turn touches the environment only, and the chosen agent, which is enabled, keeps the
invariant. -/
theorem stepKeepsInv : Obligations.StepKeepsInv := fun s _ h ht =>
  h.chooseTurn.runAgent ((chooseTurn_keeps_enabled s _).trans (chooseTurn_enabled s)) ht

end Sys2Proof.Safety
end

section
/-! The command words and the event words (30_encoding.md R84 to R97): the fields of a word, the row of the opcode map
it selects, and the two round trips between operations and words. -/

namespace Sys2Proof.Laws

open Sys2Proof.Machine

/-! ### Fields of a word -/

/-- A field that lies under the mask is the field of the fixed bits. -/
theorem field_eq_of_and_eq {w mask bits : CommandWord} (h : w &&& mask = bits) {start len : Nat}
    (hmask : mask.extractLsb' start len = BitVec.allOnes len) :
    w.extractLsb' start len = bits.extractLsb' start len := by
  rw [← h, BitVec.extractLsb'_and, hmask, BitVec.and_allOnes]

/-- Two fields side by side are one field. -/
theorem append_fields {n hi lo k m : Nat} {x : BitVec n} (h : hi = lo + k) :
    x.extractLsb' hi m ++ x.extractLsb' lo k = x.extractLsb' lo (m + k) := by
  rw [BitVec.extractLsb'_append_extractLsb'_eq_extractLsb' h]

/-! ### The opcode map (R84, R93) -/

theorem mask_covers_opcode : ∀ r ∈ opcodeMap, r.mask.extractLsb' 27 5 = BitVec.allOnes 5 := by decide

/-- No two rows share an opcode. -/
theorem row_eq_of_opcode_eq : ∀ r₁ ∈ opcodeMap, ∀ r₂ ∈ opcodeMap,
    r₁.bits.extractLsb' 27 5 = r₂.bits.extractLsb' 27 5 → r₁ = r₂ := by decide

theorem opcode_of_selects {w : CommandWord} {r : MapRow} (hr : r ∈ opcodeMap) (h : w &&& r.mask = r.bits) :
    w.extractLsb' 27 5 = r.bits.extractLsb' 27 5 := field_eq_of_and_eq h (mask_covers_opcode r hr)

theorem row_unique {w : CommandWord} {r₁ r₂ : MapRow} (hr₁ : r₁ ∈ opcodeMap) (hr₂ : r₂ ∈ opcodeMap)
    (h₁ : w &&& r₁.mask = r₁.bits) (h₂ : w &&& r₂.mask = r₂.bits) : r₁ = r₂ :=
  row_eq_of_opcode_eq r₁ hr₁ r₂ hr₂ ((opcode_of_selects hr₁ h₁).symm.trans (opcode_of_selects hr₂ h₂))

theorem checkReserved_eq_ok_iff {w mask bits : CommandWord} {i j : Instr} :
    checkReserved w mask bits i = .ok j ↔ w &&& mask = bits ∧ i = j := by
  unfold checkReserved
  split <;> simp [*]

/-- A word that selects a row decodes: its opcode picks the row's arm, and the arm checks the row's own bits. -/
theorem decodeCommand_of_selects {w : CommandWord} {r : MapRow} (hr : r ∈ opcodeMap) (h : w &&& r.mask = r.bits) :
    ∃ i, decodeCommand w = .ok i := by
  rw [decodeCommand, opcode_of_selects hr h]
  simp only [opcodeMap, List.cons_append, List.nil_append, List.mem_cons, List.not_mem_nil, or_false] at hr
  rcases hr with rfl | rfl | rfl | rfl | rfl | rfl | rfl | rfl | rfl | rfl | rfl | rfl | rfl | rfl | rfl | rfl
  all_goals exact ⟨_, if_pos h⟩

/-- The encoding of every operation lies in the operation's own row. -/
theorem ownRow : ∀ i : Instr, OwnRow.Statement i
  | .construct rows cols planes => OwnRow.construct rows cols planes
  | .rowpin pin => OwnRow.rowpin pin
  | .colpin pin => OwnRow.colpin pin
  | .srpins plane data clock latch => OwnRow.srpins plane data clock latch
  | .period us => OwnRow.period us
  | .begin => OwnRow.begin
  | .clear => OwnRow.clear
  | .writedisplay => OwnRow.writedisplay
  | .fbwr row col value => OwnRow.fbwr row col value
  | .fbrd row col => OwnRow.fbrd row col
  | .rdruntime => OwnRow.rdruntime
  | .rdlatency => OwnRow.rdlatency
  | .rdstatus => OwnRow.rdstatus
  | .rdperiod idx => OwnRow.rdperiod idx
  | .rdcursor => OwnRow.rdcursor
  | .rdtables => OwnRow.rdtables
  | .gpioCfgOut line => OwnRow.gpioCfgOut line
  | .gpioDriveLow line => OwnRow.gpioDriveLow line
  | .gpioDriveHigh line => OwnRow.gpioDriveHigh line

theorem selects_of_encode {i : Instr} {w : CommandWord} (hw : encode i = .command w) :
    ∃ r ∈ opcodeMap, w &&& r.mask = r.bits := by
  have hown := ownRow i
  rw [OwnRow.Statement, hw] at hown
  obtain ⟨r, hr, -, h⟩ := hown
  exact ⟨r, hr, h⟩

/-! ### Command words: both round trips (R85 to R91) -/

/-- The word of a command decodes to the operation that its opcode's arm reads from its fields. -/
theorem decode_encode_of_arm {i : Instr} {w mask bits : CommandWord} (hw : encode i = .command w)
    (harm : decodeCommand w = checkReserved w mask bits i) : decode (encode i) = .ok i := by
  obtain ⟨r, hr, h⟩ := selects_of_encode hw
  obtain ⟨j, hj⟩ := decodeCommand_of_selects hr h
  have hji : j = i := checkReserved_ok (harm ▸ hj)
  rw [hw, decode, hj, hji]

theorem decode_encode_of_isCommand {i : Instr} (hi : i.isCommand = true) : decode (encode i) = .ok i := by
  cases i with
  | construct | rowpin | colpin | srpins | period | fbwr | fbrd | rdperiod =>
    apply decode_encode_of_arm rfl
    simp (disch := decide) only [decodeCommand, BitVec.extractLsb'_append_eq_of_le,
      BitVec.extractLsb'_append_eq_of_add_le, BitVec.extractLsb'_eq_self, Nat.reduceSub]
    rfl
  | begin | clear | writedisplay | rdruntime | rdlatency | rdstatus | rdcursor | rdtables => rfl
  | gpioCfgOut | gpioDriveLow | gpioDriveHigh => cases hi

/-! The formats of R85 to R91: a word whose masked bits are an opcode and zeros is its fields, side by side. -/

theorem opcode_of_and_eq {w mask : CommandWord} {op : BitVec 5} (h : w &&& mask = op ++ 0#27)
    (hmask : mask.extractLsb' 27 5 = BitVec.allOnes 5) : op = w.extractLsb' 27 5 :=
  (BitVec.extractLsb'_append_eq_left.symm.trans (field_eq_of_and_eq h hmask).symm :)

theorem zeros_of_and_eq {w mask : CommandWord} {op : BitVec 5} (h : w &&& mask = op ++ 0#27) {start len : Nat}
    (hmask : mask.extractLsb' start len = BitVec.allOnes len) (hlow : start + len ≤ 27) :
    0#len = w.extractLsb' start len := by
  rw [field_eq_of_and_eq h hmask, BitVec.extractLsb'_append_eq_of_add_le hlow, BitVec.extractLsb'_zero]

theorem formatN_fields {w : CommandWord} {op : BitVec 5} (h : w &&& 0xFFFFFFFF#32 = op ++ 0#27) :
    encodeN op = w := h.symm.trans BitVec.and_allOnes

theorem formatG_fields {w : CommandWord} {op : BitVec 5} (h : w &&& 0xF80007FF#32 = op ++ 0#27) :
    op ++ w.extractLsb' 21 6 ++ w.extractLsb' 14 7 ++ w.extractLsb' 11 3 ++ 0#11 = w := by
  rw [opcode_of_and_eq h rfl, zeros_of_and_eq (start := 0) h rfl (by decide)]
  simp only [append_fields]
  exact BitVec.extractLsb'_eq_self

theorem formatP_fields {w : CommandWord} {op : BitVec 5} (h : w &&& 0xFFFFFF00#32 = op ++ 0#27) :
    op ++ 0#19 ++ w.extractLsb' 0 8 = w := by
  rw [opcode_of_and_eq h rfl, zeros_of_and_eq (start := 8) h rfl (by decide)]
  simp only [append_fields]
  exact BitVec.extractLsb'_eq_self

theorem formatS_fields {w : CommandWord} {op : BitVec 5} (h : w &&& 0xF9000000#32 = op ++ 0#27) :
    op ++ w.extractLsb' 25 2 ++ 0#1 ++ w.extractLsb' 16 8 ++ w.extractLsb' 8 8 ++ w.extractLsb' 0 8 = w := by
  rw [opcode_of_and_eq h rfl, zeros_of_and_eq (start := 24) h rfl (by decide)]
  simp only [append_fields]
  exact BitVec.extractLsb'_eq_self

theorem formatT_fields {w : CommandWord} {op : BitVec 5} (h : w &&& 0xFF000000#32 = op ++ 0#27) :
    op ++ 0#3 ++ w.extractLsb' 0 24 = w := by
  rw [opcode_of_and_eq h rfl, zeros_of_and_eq (start := 24) h rfl (by decide)]
  simp only [append_fields]
  exact BitVec.extractLsb'_eq_self

theorem formatF_fields {w : CommandWord} {op : BitVec 5} (h : w &&& 0xF8000000#32 = op ++ 0#27) :
    op ++ w.extractLsb' 22 5 ++ w.extractLsb' 16 6 ++ w.extractLsb' 0 16 = w := by
  rw [opcode_of_and_eq h rfl]
  simp only [append_fields]
  exact BitVec.extractLsb'_eq_self

/-- Format F of FBRD, whose value field is reserved. -/
theorem formatF_read_fields {w : CommandWord} {op : BitVec 5} (h : w &&& 0xF800FFFF#32 = op ++ 0#27) :
    op ++ w.extractLsb' 22 5 ++ w.extractLsb' 16 6 ++ 0#16 = w := by
  rw [opcode_of_and_eq h rfl, zeros_of_and_eq (start := 0) h rfl (by decide)]
  simp only [append_fields]
  exact BitVec.extractLsb'_eq_self

theorem formatI_fields {w : CommandWord} {op : BitVec 5} (h : w &&& 0xFFFFFFFC#32 = op ++ 0#27) :
    op ++ 0#25 ++ w.extractLsb' 0 2 = w := by
  rw [opcode_of_and_eq h rfl, zeros_of_and_eq (start := 2) h rfl (by decide)]
  simp only [append_fields]
  exact BitVec.extractLsb'_eq_self

/-- A command word that decodes is the word of its operation, by the operation's format. -/
theorem encode_of_decodeCommand {w : CommandWord} {i : Instr} (h : decodeCommand w = .ok i) :
    encode i = .command w := by
  unfold decodeCommand at h
  split at h
  case h_17 => cases h
  all_goals obtain ⟨hm, rfl⟩ := checkReserved_eq_ok_iff.mp h
  case h_1 => exact congrArg Code.command (formatG_fields hm)
  case h_2 | h_3 => exact congrArg Code.command (formatP_fields hm)
  case h_4 => exact congrArg Code.command (formatS_fields hm)
  case h_5 => exact congrArg Code.command (formatT_fields hm)
  case h_9 => exact congrArg Code.command (formatF_fields hm)
  case h_10 => exact congrArg Code.command (formatF_read_fields hm)
  case h_14 => exact congrArg Code.command (formatI_fields hm)
  all_goals exact congrArg Code.command (formatN_fields hm)

/-! ### Event words: both round trips (R96, R97) -/

/-- The operation that performs one GPIO primitive. -/
def opInstr : GpioOp → Instr
  | .cfgOut l => .gpioCfgOut l
  | .driveLow l => .gpioDriveLow l
  | .driveHigh l => .gpioDriveHigh l

theorem encode_opInstr (op : GpioOp) : encode (opInstr op) = .event (eventWord op) := by cases op <;> rfl

theorem wellFormed_opInstr {op : GpioOp} : (opInstr op).wellFormed = true ↔ op.line ≠ noneLine := by
  cases op <;> simp [opInstr, Instr.wellFormed, GpioOp.line]

theorem wellFormed_of_isCommand {i : Instr} (hi : i.isCommand = true) : i.wellFormed = true := by
  cases i with
  | gpioCfgOut | gpioDriveLow | gpioDriveHigh => cases hi
  | _ => rfl

/-- What is no command is a primitive. -/
theorem eq_opInstr_of_not_isCommand {i : Instr} (hi : i.isCommand ≠ true) : ∃ op, i = opInstr op := by
  cases i with
  | gpioCfgOut l => exact ⟨.cfgOut l, rfl⟩
  | gpioDriveLow l => exact ⟨.driveLow l, rfl⟩
  | gpioDriveHigh l => exact ⟨.driveHigh l, rfl⟩
  | _ => exact absurd rfl hi

/-- The event word of a primitive on a line decodes to the primitive. -/
theorem decodeEvent_eventWord_opInstr {op : GpioOp} (h : op.line ≠ noneLine) :
    decodeEvent (eventWord op) = .ok (opInstr op) := by
  unfold decodeEvent
  rw [eventWord_kind]
  cases op <;> simp [checkEvent, eventWord_reserved, eventWord_pin, h] <;> rfl

theorem checkEvent_eq_ok_iff {e : EventWord} {i j : Instr} :
    checkEvent e i = .ok j ↔ e.extractLsb' 8 5 = 0#5 ∧ e.extractLsb' 0 8 ≠ noneLine ∧ i = j := by
  unfold checkEvent
  split
  · simp [*]
  · split <;> simp_all

theorem append_event_fields {e : EventWord} {kind : BitVec 3} (hkind : (e.extractLsb' 13 3).toNat = kind.toNat)
    (hzero : e.extractLsb' 8 5 = 0#5) : kind ++ 0#5 ++ e.extractLsb' 0 8 = e := by
  rw [← BitVec.eq_of_toNat_eq hkind, ← hzero]
  simp only [append_fields]
  exact BitVec.extractLsb'_eq_self

/-- An event word that decodes is its KIND, its reserved zeros and its line, side by side. -/
theorem eventWord_of_decodeEvent {e : EventWord} {i : Instr} (h : decodeEvent e = .ok i) :
    ∃ op, op.line ≠ noneLine ∧ eventWord op = e ∧ i = opInstr op := by
  unfold decodeEvent at h
  split at h
  case h_4 => cases h
  all_goals
    rename_i hk
    obtain ⟨hzero, hline, rfl⟩ := checkEvent_eq_ok_iff.mp h
  case h_1 => exact ⟨.cfgOut (e.extractLsb' 0 8), hline, append_event_fields hk hzero, rfl⟩
  case h_2 => exact ⟨.driveLow (e.extractLsb' 0 8), hline, append_event_fields hk hzero, rfl⟩
  case h_3 => exact ⟨.driveHigh (e.extractLsb' 0 8), hline, append_event_fields hk hzero, rfl⟩

/-! ### The statements on encoding -/

/-- Settles O1: a command by its opcode's arm, a primitive by the parts of its event word. -/
theorem decodeOfEncode : Obligations.DecodeOfEncode := by
  intro i hi
  by_cases hc : i.isCommand = true
  · exact decode_encode_of_isCommand hc
  · obtain ⟨op, rfl⟩ := eq_opInstr_of_not_isCommand hc
    rw [encode_opInstr, decode, decodeEvent_eventWord_opInstr (wellFormed_opInstr.mp hi)]

/-- Settles O2: a word that decodes is put together again from its fields. -/
theorem encodeOfDecode : Obligations.EncodeOfDecode := by
  intro c i h
  cases c with
  | command w => exact ⟨encode_of_decodeCommand h, wellFormed_of_isCommand (decodeCommand_isCommand h)⟩
  | event e =>
    obtain ⟨op, hline, rfl, rfl⟩ := eventWord_of_decodeEvent h
    exact ⟨encode_opInstr op, wellFormed_opInstr.mpr hline⟩

theorem acceptWord_of_decode {w : CommandWord} {i : Instr} (h : decodeCommand w = .ok i) (s : State) :
    acceptWord w s = exec i s := by
  rw [acceptWord, h]

/-- A word that selects no row is illegal (R84): if it decoded, it would lie in its operation's row. -/
theorem acceptWord_of_not_selects {w : CommandWord} (h : ¬∃ r ∈ opcodeMap, w &&& r.mask = r.bits) (s : State) :
    acceptWord w s = .next (respond .errIllegal 0 s) := by
  cases hw : decodeCommand w with
  | ok i => exact absurd (selects_of_encode (encode_of_decodeCommand hw)) h
  | error e => rw [acceptWord, hw]

/-- Settles O4: a row's word decodes, a decoded word lies in a row, and the opcode tells the rows apart. -/
theorem opcodeMapDecidesDecoding : Obligations.OpcodeMapDecidesDecoding := by
  intro w s
  refine ⟨?_, fun h => acceptWord_of_not_selects h s, fun r₁ hr₁ r₂ hr₂ h₁ h₂ => row_unique hr₁ hr₂ h₁ h₂⟩
  rintro ⟨r, hr, h⟩
  obtain ⟨i, hi⟩ := decodeCommand_of_selects hr h
  exact ⟨i, decodeCommand_isCommand hi, hi, acceptWord_of_decode hi s⟩

/-! ### The step on a decoded word (R83) -/

/-- A primitive inside BEGIN or the engine and the operation of its event word do the same. -/
theorem exec_opInstr (op : GpioOp) (s : State) : exec (opInstr op) s = outcomeOf (emit op s) := by cases op <;> rfl

theorem execAll_opInstr (ops : List GpioOp) (s : State) :
    Safety.execAll (ops.map opInstr) s = outcomeOf (emitAll ops s) := by
  induction ops generalizing s with
  | nil => rfl
  | cons op ops ih =>
    rw [List.map_cons, Safety.execAll, exec_opInstr, emitAll]
    cases emit op s with
    | ok t => exact ih t
    | error f => rfl

/-- Settles O5: the scheduled HOST takes its word; emitting follows the decoded event words one by one. -/
theorem stepRunsDecodedOperation : Obligations.StepRunsDecodedOperation := by
  refine ⟨fun s w q rest i hs hq hc hi => ?_, fun s ops hl => ⟨ops.map opInstr, ?_, (execAll_opInstr ops s).symm⟩⟩
  · have he : agentEnabled .host s = true := host_enabled_iff.mpr ⟨by simp [hq], hc⟩
    rw [stepTakesScheduledAgent s .host rest hs he, runAgent, hostStep, hq]
    exact acceptWord_of_decode hi _
  · rw [List.map_map]
    exact List.map_congr_left fun op hop => decodeEvent_eventWord_opInstr (hl op hop)

end Sys2Proof.Laws
end

section
/-! When a command is answered, and the DATA of its response (30_encoding.md R82, R83; 60_exceptions.md R202, R206). -/

namespace Sys2Proof.Machine

/-- What the state after command `i` may hold as the response. -/
def AnsweredBy (i : Instr) (t : State) : Prop :=
  (t.response = none → i = .clear) ∧
  ∀ r, t.response = some r →
    r.data = 0 ∨
    (r.status = .ok ∧ (Safety.legality i .halted = true ∨ ∃ row col, i = .fbrd row col)) ∨
    (r.status = .errHalted ∧ t.lc = .halted ∧ r.data = t.diag.setWidth 32)

/-- A refusal, and a command without DATA of its own. -/
theorem answeredBy_zero (i : Instr) (st : Status) (s : State) : AnsweredBy i (respond st 0 s) :=
  ⟨nofun, fun _ hr => .inl (by cases hr; rfl)⟩

/-- A fatal halt answers its DIAG code (60_exceptions.md R206). -/
theorem answeredBy_halt (i : Instr) (d : HaltCause) (s : State) : AnsweredBy i (halt d s) :=
  ⟨nofun, fun _ hr => .inr (.inr (by cases hr; exact ⟨rfl, rfl, rfl⟩))⟩

/-- A diagnostic read, legal in HALTED too, answers OK with its register. -/
theorem answeredBy_read {i : Instr} (hi : Safety.legality i .halted = true) (d : ResponseData) (s : State) :
    AnsweredBy i (respond .ok d s) :=
  ⟨nofun, fun _ hr => .inr (.inl (by cases hr; exact ⟨rfl, .inl hi⟩))⟩

theorem answeredBy_fbrd (row : BitVec 5) (col : BitVec 6) (d : ResponseData) (s : State) :
    AnsweredBy (.fbrd row col) (respond .ok d s) :=
  ⟨nofun, fun _ hr => .inr (.inl (by cases hr; exact ⟨rfl, .inr ⟨row, col, rfl⟩⟩))⟩

theorem answeredBy_clearing (s : State) : AnsweredBy .clear { s with clearIdx := some 0, response := none } :=
  ⟨fun _ => rfl, nofun⟩

/-- Settles O17: each command's possible outcomes are among the five kinds of answer. -/
theorem responsesAndTheirData : Obligations.ResponsesAndTheirData := by
  intro i s t hi h
  change AnsweredBy i t
  cases i with
  | construct r c p =>
    rcases execConstruct_next h with ⟨st, rfl⟩ | ⟨-, rfl | rfl⟩ | ⟨-, -, -, rfl⟩
    · exact answeredBy_zero _ st s
    · exact answeredBy_halt _ _ s
    · exact answeredBy_halt _ _ s
    · exact answeredBy_zero _ _ _
  | rowpin pin => rcases execRowpin_next h with ⟨st, rfl⟩ | ⟨-, -, rfl⟩ <;> exact answeredBy_zero _ _ _
  | colpin pin => rcases execColpin_next h with ⟨st, rfl⟩ | ⟨-, -, rfl⟩ <;> exact answeredBy_zero _ _ _
  | srpins c d k l => rcases execSrpins_next h with ⟨st, rfl⟩ | ⟨-, -, rfl⟩ <;> exact answeredBy_zero _ _ _
  | period us => rcases execPeriod_next h with ⟨st, rfl⟩ | ⟨-, rfl⟩ <;> exact answeredBy_zero _ _ _
  | begin =>
    rcases execBegin_next h with ⟨st, rfl⟩ | ⟨-, d, -, rfl⟩ | ⟨-, -, u, -, rfl⟩
    · exact answeredBy_zero _ st s
    · exact answeredBy_halt _ d s
    · exact answeredBy_zero _ _ _
  | clear =>
    rcases execClear_next h with ⟨st, rfl⟩ | ⟨-, rfl⟩
    · exact answeredBy_zero _ st s
    · exact answeredBy_clearing s
  | writedisplay =>
    obtain ⟨st, rfl⟩ := execWritedisplay_next h
    exact answeredBy_zero _ st s
  | fbwr row col v => rcases execFbwr_next h with ⟨st, rfl⟩ | ⟨-, -, u, -, rfl⟩ <;> exact answeredBy_zero _ _ _
  | fbrd row col =>
    obtain ⟨st, d, rfl, rfl | rfl⟩ := execFbrd_next h
    · exact answeredBy_zero _ st s
    · exact answeredBy_fbrd row col d s
  | rdruntime | rdlatency | rdstatus | rdperiod _ | rdcursor | rdtables =>
    cases h
    exact answeredBy_read rfl _ s
  | gpioCfgOut | gpioDriveLow | gpioDriveHigh => cases hi

end Sys2Proof.Machine
end


section
/-! The FILL pseudo-instruction (30_encoding.md R101) writes every cell (41_framebuffer.md R128, 20_memory.md R61). -/

namespace Sys2Proof.Safety

open Sys2Proof.Machine

/-! ### The index pairs of FILL -/

/-- The row-major index of a pair in range is below ROWS × COLS. -/
theorem rowMajor_lt {rows cols : Nat} {p : Nat × Nat} (hrow : p.1 < rows) (hcol : p.2 < cols) :
    p.1 * cols + p.2 < rows * cols :=
  calc
    p.1 * cols + p.2 < (p.1 + 1) * cols := by rw [Nat.succ_mul]; omega
    _ ≤ rows * cols := Nat.mul_le_mul_right _ hrow

/-- Every index below ROWS × COLS is that of its quotient and remainder by COLS. -/
theorem exists_rowMajor_eq {rows cols j : Nat} (hj : j < rows * cols) :
    ∃ p ∈ List.range rows ×ˢ List.range cols, p.1 * cols + p.2 = j := by
  have hpos : 0 < cols := Nat.pos_of_mul_pos_left (Nat.zero_lt_of_lt hj)
  refine ⟨(j / cols, j % cols), List.pair_mem_product.mpr ⟨?_, ?_⟩, Nat.div_add_mod' j cols⟩
  · exact List.mem_range.mpr (Nat.div_lt_of_lt_mul (Nat.mul_comm .. ▸ hj))
  · exact List.mem_range.mpr (Nat.mod_lt j hpos)

/-- The FBWR of FILL at one index pair. -/
def fillWrite (v : CellValue) (p : Nat × Nat) : Instr := .fbwr (BitVec.ofNat 5 p.1) (BitVec.ofNat 6 p.2) v

theorem fill_eq_map (rows cols : Nat) (v : CellValue) :
    Pseudo.fill rows cols v = (List.range rows ×ˢ List.range cols).map (fillWrite v) := by
  change _ = (List.product _ _).map _
  rw [Pseudo.fill, List.product, List.map_flatMap]
  simp only [List.map_map]
  rfl

/-! ### Its writes -/

/-- What the writes of FILL need and keep: FBWR is legal, and the cells are those of the geometry. -/
structure Fillable (rows cols : Nat) (s : State) : Prop where
  legal : s.lc = .constructed ∨ s.lc = .running
  rowCount_eq : s.rowCount = rows
  colCount_eq : s.colCount = cols
  rows_le : rows ≤ 32
  cols_le : cols ≤ 64
  cells : s.fb.map Prod.fst = List.range (rows * cols)

theorem Inv.fillable {s : State} (h : Inv s) (hl : s.lc = .constructed ∨ s.lc = .running) :
    Fillable s.rowCount s.colCount s := by
  obtain ⟨-, hrow, -, hcol, -⟩ := h.geometryLegal hl
  exact ⟨hl, rfl, rfl, hrow, hcol, h.cells⟩

/-- An FBWR in range writes its cell and no other (R128). -/
theorem Fillable.exec_fillWrite {rows cols : Nat} {s : State} (h : Fillable rows cols s) (v : CellValue)
    {p : Nat × Nat} (hrow : p.1 < rows) (hcol : p.2 < cols) :
    ∃ t, exec (fillWrite v p) s = .next t ∧ Fillable rows cols t ∧
      ∀ j, t.fb.read j = if j = p.1 * cols + p.2 then some v else s.fb.read j := by
  obtain ⟨hl, rfl, rfl, hrows, hcols, hcells⟩ := h
  have hmem : cellIndex s p.1 p.2 ∈ s.fb.map Prod.fst := by
    rw [hcells, List.mem_range]
    exact rowMajor_lt hrow hcol
  have hrow' : (BitVec.ofNat 5 p.1).toNat = p.1 := Nat.mod_eq_of_lt (hrow.trans_le hrows)
  have hcol' : (BitVec.ofNat 6 p.2).toNat = p.2 := Nat.mod_eq_of_lt (hcol.trans_le hcols)
  refine ⟨respond .ok 0 { s with fb := insertKey (cellIndex s p.1 p.2) v s.fb }, ?_, ?_, fun j => ?_⟩
  · simp only [fillWrite, exec, execFbwr, guarded_legal (legal_frameBuffer.mpr hl), hrow', hcol', inRange, hrow, hcol,
      memWrite_of_mem v hmem, decide_true, Bool.and_true, if_true]
  · exact ⟨hl, rfl, rfl, hrows, hcols,
      (keys_insertKey_of_mem v (risingKeys_of_keys_range hcells) hmem).trans hcells⟩
  · exact lookupKey_insertKey j _ v s.fb

/-- Writes in range run through and leave `v` in their cells and every other cell as it was. -/
theorem Fillable.execAll_fillWrites {rows cols : Nat} {s : State} (h : Fillable rows cols s) (v : CellValue)
    {ps : List (Nat × Nat)} (hps : ∀ p ∈ ps, p.1 < rows ∧ p.2 < cols) :
    ∃ t, execAll (ps.map (fillWrite v)) s = .next t ∧ Fillable rows cols t ∧
      ∀ j, t.fb.read j = if j ∈ ps.map (fun p => p.1 * cols + p.2) then some v else s.fb.read j := by
  induction ps generalizing s with
  | nil => exact ⟨s, rfl, h, fun _ => rfl⟩
  | cons p ps ih =>
    obtain ⟨hp, hps⟩ := List.forall_mem_cons.mp hps
    obtain ⟨u, hu, hfill, hone⟩ := h.exec_fillWrite v hp.1 hp.2
    obtain ⟨t, ht, hfill, hrest⟩ := ih hfill hps
    refine ⟨t, ?_, hfill, fun j => ?_⟩
    · rw [List.map_cons, execAll, hu]
      exact ht
    · simp only [hrest, hone, List.map_cons, List.mem_cons, or_comm (a := j = _), ite_or]

/-- Settles O33: FILL's index pairs are in range and reach every cell. -/
theorem fillWritesEveryCell : Obligations.FillWritesEveryCell := by
  intro v s h hl
  have hps : ∀ p ∈ List.range s.rowCount ×ˢ List.range s.colCount, p.1 < s.rowCount ∧ p.2 < s.colCount := by
    rintro ⟨r, c⟩ hp
    exact (List.pair_mem_product.mp hp).imp List.mem_range.mp List.mem_range.mp
  obtain ⟨t, ht, hfill, hread⟩ := (h.fillable hl).execAll_fillWrites v hps
  refine ⟨t, fill_eq_map _ _ v ▸ ht, fun j => ?_⟩
  split
  · rename_i hj
    rw [hread, if_pos (List.mem_map.mpr (exists_rowMajor_eq hj))]
  · rename_i hj
    rw [← Option.not_isSome_iff_eq_none, Memory.read, lookupKey_isSome_iff, hfill.cells, List.mem_range]
    exact hj

end Sys2Proof.Safety
end

section
/-! Line levels and TRACE (10_state.md R49 to R51; 40_gpio_shiftreg.md R111 to R120): what one primitive does, that
every step leaves each line where its events put it, and the events of SR_LOAD. -/

namespace Sys2Proof.Safety

open Sys2Proof.Machine

/-! ### Lines follow TRACE (R122, R124) -/

/-- A line at `x` stands where the events of `tr` put line `l`. -/
def LineFollows (tr : List EventWord) (l : LineId) (x : Line) : Prop :=
  match lastDrive l tr with
  | some b => x = ⟨.output, .ofBit b⟩
  | none => if eventWord (.cfgOut l) ∈ tr then x.mode = .output ∧ x.level ≠ .z else x = .undriven

theorem levelsFollowTrace_iff {s : State} : LevelsFollowTrace s ↔ ∀ l, LineFollows s.trace l (lineAt s l) := Iff.rfl

theorem lineFollows_of_lastDrive_eq_some {tr : List EventWord} {l : LineId} {b : Bool} (h : lastDrive l tr = some b)
    {x : Line} : LineFollows tr l x ↔ x = ⟨.output, .ofBit b⟩ := by
  rw [LineFollows, h]

theorem lineFollows_of_lastDrive_eq_none {tr : List EventWord} {l : LineId} (h : lastDrive l tr = none) {x : Line} :
    LineFollows tr l x ↔
      if eventWord (.cfgOut l) ∈ tr then x.mode = .output ∧ x.level ≠ .z else x = .undriven := by
  rw [LineFollows, h]

/-- One more event: a drive of the line is its last, any other event leaves the last drive as it was. -/
theorem lastDrive_concat (l : LineId) (tr : List EventWord) (op : GpioOp) :
    lastDrive l (tr ++ [eventWord op]) =
      if op = .driveLow l then some false else if op = .driveHigh l then some true else lastDrive l tr := by
  simp [lastDrive, List.foldl_append]

theorem ofBit_ne_z (b : Bool) : Level.ofBit b ≠ .z := by cases b <;> nofun

/-- Configuring a line keeps the level it has or gives it one, so it goes on following TRACE. -/
theorem LineFollows.cfgOut {tr : List EventWord} {l : LineId} {x : Line} {v : Level} (h : LineFollows tr l x)
    (hz : v ≠ .z) (hv : x.level ≠ .z → v = x.level) : LineFollows (tr ++ [eventWord (.cfgOut l)]) l ⟨.output, v⟩ := by
  cases hd : lastDrive l tr with
  | some b =>
    obtain rfl := (lineFollows_of_lastDrive_eq_some hd).mp h
    obtain rfl := hv (ofBit_ne_z b)
    exact (lineFollows_of_lastDrive_eq_some (by simp [lastDrive_concat, hd])).mpr rfl
  | none =>
    rw [lineFollows_of_lastDrive_eq_none (by simp [lastDrive_concat, hd]), if_pos (by simp)]
    exact ⟨rfl, hz⟩

/-- An event on another line says nothing of this one. -/
theorem LineFollows.concat_of_ne {tr : List EventWord} {l : LineId} {x : Line} (h : LineFollows tr l x) {op : GpioOp}
    (hl : l ≠ op.line) : LineFollows (tr ++ [eventWord op]) l x := by
  have hne {p : GpioOp} (hp : l = p.line) : op ≠ p := fun h => hl (h ▸ hp)
  have hdrive : lastDrive l (tr ++ [eventWord op]) = lastDrive l tr := by
    rw [lastDrive_concat, if_neg (hne rfl), if_neg (hne rfl)]
  have hcfg : eventWord (.cfgOut l) ∈ tr ++ [eventWord op] ↔ eventWord (.cfgOut l) ∈ tr := by
    simp [(hne (p := .cfgOut l) rfl).symm]
  simpa only [LineFollows, hdrive, hcfg] using h

/-- The line of a primitive stands where the primitive's event puts it. -/
theorem LineFollows.concat_line {op : GpioOp} {v : Level} {s : State} (hv : opLevel op v s)
    (h : LineFollows s.trace op.line (lineAt s op.line)) :
    LineFollows (s.trace ++ [eventWord op]) op.line ⟨.output, v⟩ := by
  cases op with
  | cfgOut l => exact h.cfgOut hv.1 hv.2
  | driveLow l =>
    obtain ⟨rfl, -⟩ := hv
    exact (lineFollows_of_lastDrive_eq_some (b := false) (by simp [lastDrive_concat, GpioOp.line])).mpr rfl
  | driveHigh l =>
    obtain ⟨rfl, -⟩ := hv
    exact (lineFollows_of_lastDrive_eq_some (b := true) (by simp [lastDrive_concat, GpioOp.line])).mpr rfl

/-- The property speaks of the lines and of TRACE only. -/
theorem LevelsFollowTrace.congr {s t : State} (h : LevelsFollowTrace s) (hl : t.lines = s.lines)
    (ht : t.trace = s.trace) : LevelsFollowTrace t := by
  intro l
  rw [lineAt_congr hl, ht]
  exact h l

theorem LevelsFollowTrace.emit {op : GpioOp} {s t : State} (h : LevelsFollowTrace s) (ht : emit op s = .ok t) :
    LevelsFollowTrace t := by
  obtain ⟨-, v, g, hv, rfl⟩ := emit_ok ht
  refine levelsFollowTrace_iff.mpr fun l => ?_
  rw [lineAt, lineAt_insert]
  split
  · subst l
    exact .concat_line hv (h op.line)
  · exact .concat_of_ne (h l) ‹_›

theorem LevelsFollowTrace.emitAll {ops : List GpioOp} {s t : State} (h : LevelsFollowTrace s)
    (ht : emitAll ops s = .ok t) : LevelsFollowTrace t := by
  induction ops generalizing s with
  | nil =>
    cases ht
    exact h
  | cons op ops ih =>
    obtain ⟨u, hu, ht⟩ := emitAll_cons_ok.mp ht
    exact ih (h.emit hu) ht

/-- Of the commands only a BEGIN that launches writes the lines or TRACE, and it does so by emitting. -/
theorem LevelsFollowTrace.commandEffect {i : Instr} {s t : State} (h : LevelsFollowTrace s)
    (he : CommandEffect i s t) : LevelsFollowTrace t := by
  cases he with
  | launched u _ _ _ hu => exact (h.emitAll hu).congr rfl rfl
  | written k v u hu =>
    obtain ⟨m, -, rfl⟩ := memWrite_eq_ok.mp hu
    exact h.congr rfl rfl
  | answered | halted | allocated | configured | clearing => exact h.congr rfl rfl

theorem LevelsFollowTrace.acceptWord {w : CommandWord} {s t : State} (h : LevelsFollowTrace s)
    (ht : acceptWord w s = .next t) : LevelsFollowTrace t := by
  rcases acceptWord_effect ht with ⟨i, -, he⟩ | rfl
  · exact h.commandEffect he
  · exact h.congr rfl rfl

/-- HOST and ENGINE emit, RESET leaves no event and no configured line, TICK and CLEAR write neither. -/
theorem LevelsFollowTrace.runAgent {a : Agent} {s t : State} (h : LevelsFollowTrace s)
    (ht : runAgent a s = .next t) : LevelsFollowTrace t := by
  cases a with
  | host =>
    obtain ⟨w, q, -, hw⟩ := hostStep_next ht
    exact (h.congr (t := { s with hostQueue := q }) rfl rfl).acceptWord hw
  | clear =>
    rw [clearStep_frame ht]
    exact h.congr rfl rfl
  | tick =>
    cases ht
    rw [tickStep_frame]
    exact h.congr rfl rfl
  | engine =>
    obtain ⟨ops, u, -, hu, rfl⟩ := engineStep_eq ht
    have hstart : LevelsFollowTrace (engineStart s) := h.congr (engineStart_lines s) (engineStart_trace s)
    exact (hstart.emitAll hu).congr rfl rfl
  | reset =>
    cases ht
    exact fun _ => rfl

/-- Settles O58: choosing a turn touches neither the lines nor TRACE, and each agent's step keeps them together. -/
theorem stepKeepsLevelsFollowTrace : Obligations.StepKeepsLevelsFollowTrace := by
  intro s t h ht
  obtain ⟨rest, r, n, hframe⟩ := chooseTurn_frame s
  have hchosen : LevelsFollowTrace (chooseTurn s).2 := by
    rw [hframe]
    exact h.congr rfl rfl
  exact hchosen.runAgent ht

/-! ### Event words and SR_LOAD (30_encoding.md R96; R117, R118, R120) -/

/-- A KIND, five zeros and a line side by side are the KIND's bits or'ed with the line (R96). -/
theorem append_line_eq_or (kind : BitVec 3) (l : LineId) :
    kind ++ 0#5 ++ l = (kind ++ 0#13 : BitVec 16) ||| l.setWidth 16 := by
  apply BitVec.eq_of_getLsbD_eq
  intro i hi
  simp only [BitVec.getLsbD_append, BitVec.getLsbD_or, BitVec.getLsbD_setWidth]
  interval_cases i <;> simp

theorem eventWord_cfgOut (l : LineId) : eventWord (.cfgOut l) = cfgWord l := append_line_eq_or 0#3 l

theorem eventWord_driveLow (l : LineId) : eventWord (.driveLow l) = loWord l := append_line_eq_or 1#3 l

theorem eventWord_driveHigh (l : LineId) : eventWord (.driveHigh l) = hiWord l := append_line_eq_or 2#3 l

theorem eventWord_drive (l : LineId) (b : Bool) : eventWord (drive l b) = driveWord l b := by
  cases b
  · exact eventWord_driveLow l
  · exact eventWord_driveHigh l

/-- The bits in the shift order (R118). -/
theorem map_srOrderSeq (o : SrOrder) (bits : List Bool) :
    (srOrderSeq o bits.length).map (fun j => bits.getD j false) = if o = .asc then bits else bits.reverse := by
  have hbits : (List.range bits.length).map (fun j => bits.getD j false) = bits :=
    List.ext_getElem (by simp) fun j _ hj => by simp [hj]
  cases o with
  | asc => exact hbits
  | desc => exact List.map_reverse.trans (congrArg List.reverse hbits)

/-- SR_LOAD bit by bit, the bits taken in the shift order (R117, R118). -/
theorem srLoadOps_eq (o : SrOrder) (t : SrTriple) (bits : List Bool) :
    srLoadOps o t bits = [.driveLow t.latch] ++
      (if o = .asc then bits else bits.reverse).flatMap
        (fun b => [drive t.data b, .driveHigh t.clock, .driveLow t.clock]) ++ [.driveHigh t.latch] := by
  rw [← map_srOrderSeq, List.flatMap_map, srLoadOps]

/-- Settles O59: each bit of the shift order gives three events, between the latch's two. -/
theorem srLoadEvents : Obligations.SrLoadEvents := by
  intro o t bits
  have hlen : (if o = .asc then bits else bits.reverse).length = bits.length := by split <;> simp
  rw [srLoadOps_eq]
  constructor
  · simp [srLoadWords, List.map_flatMap, eventWord_driveLow, eventWord_driveHigh, eventWord_drive]
  · simp only [List.length_append, List.length_flatMap, List.length_cons, List.length_nil, List.map_const',
      List.sum_replicate, smul_eq_mul, hlen]
    omega

/-! ### One primitive as an operation of its own (R111 to R113) -/

@[simp] theorem lineAt_appendTrace (e : EventWord) (s : State) (l : LineId) : lineAt (appendTrace e s) l = lineAt s l :=
  rfl

theorem gpioCfgOut_of_z {l : LineId} {s : State} (hl : l ≠ noneLine) (hz : (lineAt s l).level = .z) :
    gpioCfgOut l s =
      .ok (appendTrace (eventWord (.cfgOut l)) (setOutput l (.ofBit (Config.gpioCfgDraw s.draws.gpio))
        { s with draws := { s.draws with gpio := s.draws.gpio + 1 } })) := by
  rw [gpioCfgOut, if_neg hl, hz]

theorem gpioCfgOut_of_ne_z {l : LineId} {s : State} (hl : l ≠ noneLine) (hz : (lineAt s l).level ≠ .z) :
    gpioCfgOut l s = .ok (appendTrace (eventWord (.cfgOut l)) (setOutput l (lineAt s l).level s)) := by
  rw [gpioCfgOut, if_neg hl]
  split
  · exact absurd ‹_› hz
  · rfl

/-- Settles O55: a line at Z gets the drawn level, any other line keeps its level. -/
theorem gpioConfigures : Obligations.GpioConfigures := by
  intro l s hl
  rw [← eventWord_cfgOut]
  by_cases hz : (lineAt s l).level = .z
  · refine ⟨_, congrArg outcomeOf (gpioCfgOut_of_z hl hz), rfl, ?_, ?_, ?_, ?_, fun m hm => ?_⟩
    · simp
    · simp [ofBit_ne_z]
    · exact fun hn => absurd hz hn
    · simp
    · simp only [lineAt_appendTrace, lineAt_setOutput, if_neg hm]
      rfl
  · refine ⟨_, congrArg outcomeOf (gpioCfgOut_of_ne_z hl hz), rfl, ?_, ?_, ?_, ?_, fun m hm => ?_⟩
    · simp
    · simpa using hz
    · simp
    · exact fun hn => absurd hn hz
    · simp [hm]

/-- A drive of a configured line, said once for both levels. -/
theorem gpioDrive_ok {l : LineId} {s : State} (v : Level) (e : EventWord) (hl : l ≠ noneLine)
    (hm : (lineAt s l).mode = .output) :
    ∃ t, outcomeOf (gpioDrive l v e s) = .next t ∧ t = { s with lines := t.lines, trace := s.trace ++ [e] } ∧
      lineAt t l = ⟨.output, v⟩ ∧ ∀ m, m ≠ l → lineAt t m = lineAt s m := by
  refine ⟨appendTrace e (setOutput l v s), by simp [gpioDrive, hl, hm, outcomeOf], rfl, by simp, fun m hne => ?_⟩
  simp [hne]

/-- Settles O56: the two levels of one drive. -/
theorem gpioDrives : Obligations.GpioDrives := by
  intro l s hl hm
  rw [← eventWord_driveLow, ← eventWord_driveHigh]
  exact ⟨gpioDrive_ok .low _ hl hm, gpioDrive_ok .high _ hl hm⟩

end Sys2Proof.Safety
end

section
/-! The frame buffer as the host sees it (41_framebuffer.md R126 to R134): FBWR, FBRD, CLEAR with its CLEAR steps,
WRITEDISPLAY, and the levels of a cell. -/

namespace Sys2Proof.Machine

open Sys2Proof.Safety

/-! ### The HOST's commands -/

theorem inRange_iff {s : State} {r c : Nat} : inRange s r c = true ↔ r < s.rowCount ∧ c < s.colCount := by
  simp [inRange]

section

variable {row : BitVec 5} {col : BitVec 6} {v : CellValue} {s : State} (hl : s.lc = .constructed ∨ s.lc = .running)
include hl

theorem exec_fbwr_inRange (hr : row.toNat < s.rowCount) (hc : col.toNat < s.colCount)
    (hm : (s.fb.read (cellIndex s row.toNat col.toNat)).isSome = true) :
    exec (.fbwr row col v) s =
      .next (respond .ok 0 { s with fb := insertKey (cellIndex s row.toNat col.toNat) v s.fb }) := by
  rw [exec, execFbwr, guarded_legal (legal_frameBuffer.mpr hl), if_pos (inRange_iff.mpr ⟨hr, hc⟩),
    memWrite_of_mem v ((lookupKey_isSome_iff _ _).mp hm)]

theorem exec_fbwr_outOfRange (hn : ¬(row.toNat < s.rowCount ∧ col.toNat < s.colCount)) :
    exec (.fbwr row col v) s = .next (respond .ok 0 s) := by
  rw [exec, execFbwr, guarded_legal (legal_frameBuffer.mpr hl), if_neg (inRange_iff.not.mpr hn)]

theorem exec_fbrd_inRange (hr : row.toNat < s.rowCount) (hc : col.toNat < s.colCount)
    (hv : s.fb.read (cellIndex s row.toNat col.toNat) = some v) :
    exec (.fbrd row col) s = .next (respond .ok (v.setWidth 32) s) := by
  rw [exec, execFbrd, guarded_legal (legal_frameBuffer.mpr hl), if_pos (inRange_iff.mpr ⟨hr, hc⟩), readCell,
    memRead_eq_ok.mpr hv]

theorem exec_fbrd_outOfRange (hn : ¬(row.toNat < s.rowCount ∧ col.toNat < s.colCount)) :
    exec (.fbrd row col) s = .next (respond .ok 0 s) := by
  rw [exec, execFbrd, guarded_legal (legal_frameBuffer.mpr hl), if_neg (inRange_iff.not.mpr hn)]

end

/-- Settles O26: in range the write inserts one cell, out of range the command only answers. -/
theorem fbwrWritesOneCell : Obligations.FbwrWritesOneCell := fun _ _ v s hl =>
  ⟨fun hr hc hm => ⟨_, exec_fbwr_inRange hl hr hc hm, rfl, fun j => lookupKey_insertKey j _ v s.fb⟩,
    exec_fbwr_outOfRange hl⟩

/-- Settles O27: in range the read finds its cell, out of range the command answers 0. -/
theorem fbrdReadsOneCell : Obligations.FbrdReadsOneCell := fun _ _ _ hl =>
  ⟨fun _ hr hc hv => exec_fbrd_inRange hl hr hc hv, exec_fbrd_outOfRange hl⟩

/-- Settles O29: where it is legal, CLEAR is its one update. -/
theorem clearStarts : Obligations.ClearStarts := fun _ hl => guarded_legal (legal_frameBuffer.mpr hl) _

/-- Settles O34: outside HALTED, where it is legal, WRITEDISPLAY only answers. -/
theorem writedisplayIsNoOp : Obligations.WritedisplayIsNoOp := fun _ hl => guarded_legal (legal_display.mpr hl) _

/-! ### The CLEAR agent (R132, R133) -/

/-- Settles O30: the write of one cell, then the two ways on. -/
theorem clearStepZeroesOneCell : Obligations.ClearStepZeroesOneCell := by
  intro s i hi hm
  have hcell : clearStep s = clearCell i s := by rw [clearStep, hi]
  have hread := fun j => lookupKey_insertKey j i (0 : CellValue) s.fb
  rw [runAgent, hcell, clearCell, memWrite_of_mem 0 ((lookupKey_isSome_iff _ _).mp hm)]
  by_cases hlast : i + 1 = s.cellCount
  · exact ⟨_, if_pos hlast, hread, fun _ => rfl, fun hn => absurd hlast hn⟩
  · exact ⟨_, if_neg hlast, hread, fun hn => absurd hn hlast, fun _ => rfl⟩

theorem clearSteps_succ_of_next {n : Nat} {s t : State} (h : clearSteps n s = .next t) :
    clearSteps (n + 1) s = clearStep t := by
  induction n generalizing s with
  | zero =>
    cases h
    cases hc : clearStep t <;> simp [clearSteps, hc]
  | succ n ih =>
    rw [clearSteps] at h ⊢
    split at h
    · exact ih h
    · cases h
    · cases h

/-- Settles O31, by induction on the number of CLEAR steps: each is taken at the index they have reached. -/
theorem clearRunZeroesEveryCell : Obligations.ClearRunZeroesEveryCell := by
  intro s hcells hstart hpos n
  induction n with
  | zero => exact fun _ => ⟨s, rfl, by simp, fun _ => by rw [← hstart], fun h => absurd h hpos.ne⟩
  | succ n ih =>
    intro hn
    obtain ⟨t, ht, hread, hbefore, -⟩ := ih (Nat.le_of_succ_le hn)
    have htn := hbefore hn
    have hcell : (t.fb.read n).isSome = true := by
      rw [hread, if_neg (lt_irrefl n), Memory.read, lookupKey_isSome_iff, hcells]
      exact List.mem_range.mpr hn
    obtain ⟨u, hu, hone, hlast, hmore⟩ := clearStepZeroesOneCell t n (by rw [htn]) hcell
    refine ⟨u, (clearSteps_succ_of_next ht).trans hu, fun j => ?_, fun hlt => ?_, fun heq => ?_⟩
    · simp only [hone, hread, Nat.lt_succ_iff_lt_or_eq, or_comm (b := j = n), ite_or]
    · rw [hmore (by rw [htn]; exact hlt.ne), htn]
    · rw [hlast (by rw [htn]; exact heq), htn]

/-! ### The levels of a cell (R126, R127; 43_controller_config.md R187) -/

theorem planeBit_eq_getLsbD_intensity (v : CellValue) (c : Nat) {b : Nat} (hb : b < 4) :
    planeBit v c b = (intensity v c).getLsbD b := by
  simp [planeBit, intensity, hb]

/-- Four bits are worth the sum of their weights. -/
theorem toNat_eq_sum_weights : ∀ x : BitVec 4,
    x.toNat = ((List.range 4).map fun b => if x.getLsbD b then 2 ^ b else 0).sum := by decide

theorem intensity_eq_sum_planeBits (v : CellValue) (c : Nat) :
    (intensity v c).toNat = ((List.range 4).map fun b => if planeBit v c b then 2 ^ b else 0).sum := by
  rw [toNat_eq_sum_weights]
  refine congrArg List.sum (List.map_congr_left fun b hb => ?_)
  rw [planeBit_eq_getLsbD_intensity v c (List.mem_range.mp hb)]

/-- PTABLE[b] = BASE × 2^b: its 27 bits hold every product (R187). -/
theorem periodTable_at_toNat (base : BitVec 24) {b : Nat} (hb : b < 4) :
    ((periodTable base).at (BitVec.ofNat 2 b)).toNat = base.toNat * 2 ^ b := by
  have hbase := base.isLt
  interval_cases b <;> simp [periodTable, Quad.at, Nat.shiftLeft_eq] <;> omega

/-- Settles O54: the level's four bits are the plane's bit-planes, and BASE is a common factor of their times. -/
theorem levelIsWeightedSum : Obligations.LevelIsWeightedSum := by
  intro v c _
  refine ⟨fun b _ => Nat.testBit_eq_decide_div_mod_eq, intensity_eq_sum_planeBits v c, fun base => ?_⟩
  rw [intensity_eq_sum_planeBits, ← List.sum_map_mul_left]
  refine congrArg List.sum (List.map_congr_left fun b hb => ?_)
  rw [periodTable_at_toNat base (List.mem_range.mp hb), mul_ite, mul_zero]

end Sys2Proof.Machine
end

section
/-! TICK and ENGINE steps from a state that meets the invariant: what they leave unchanged (10_state.md R55), and which
events an invocation has, so that it always succeeds (42_refresh_engine.md R146 to R151, R160). -/

namespace Sys2Proof.Safety

open Sys2Proof.Machine

/-! ### The frame of TICK and ENGINE -/

/-- The state without what a TICK or an ENGINE step may write (10_state.md R55). -/
def sansInterrupts (s : State) : State :=
  { s with
    curRow := 0, curPlane := 0, slot := 0, now := 0, count := 0, period := 0, irqPending := false, lastStart := 0,
    runtime := 0, latency := 0, lines := [], trace := [], draws := { s.draws with gpio := 0, runtime := 0 } }

/-- The agents that step without the host. -/
def IsInterrupt (a : Agent) : Prop := a = .tick ∨ a = .engine

theorem runAgent_sansInterrupts {a : Agent} {s t : State} (ha : IsInterrupt a) (h : runAgent a s = .next t) :
    sansInterrupts t = sansInterrupts s := by
  rcases ha with rfl | rfl
  · cases h
    rw [tickStep_frame]
    rfl
  · rw [engineStep_frame h]
    rfl

theorem agentSteps_sansInterrupts {s t : State} (h : AgentSteps IsInterrupt s t) :
    sansInterrupts t = sansInterrupts s := by
  induction h with
  | refl s => rfl
  | step a ha _ hs _ ih => exact ih.trans (runAgent_sansInterrupts ha hs)

/-- Settles O28: the cell written stays what it is, and so does its index. -/
theorem roundTripAcrossInterrupts : Obligations.RoundTripAcrossInterrupts := by
  intro row col v s hinv hl hr hc
  have hm : (s.fb.read (cellIndex s row.toNat col.toNat)).isSome = true :=
    Option.isSome_iff_exists.mpr (hinv.cell hr hc)
  refine ⟨_, exec_fbwr_inRange hl hr hc hm, fun u hu => ?_⟩
  have hsame := agentSteps_sansInterrupts hu
  have hlc : u.lc = s.lc := (congrArg State.lc hsame :)
  have hrows : u.rowCount = s.rowCount := (congrArg State.rowCount hsame :)
  have hcols : u.colCount = s.colCount := (congrArg State.colCount hsame :)
  have hfb : u.fb = insertKey (cellIndex s row.toNat col.toNat) v s.fb := (congrArg State.fb hsame :)
  have hindex : cellIndex u row.toNat col.toNat = cellIndex s row.toNat col.toNat := by
    rw [cellIndex, cellIndex, hcols]
  exact exec_fbrd_inRange (hlc ▸ hl) (hrows ▸ hr) (hcols ▸ hc) (by
    rw [hfb, hindex]
    exact lookupKey_insertKey_same _ v s.fb)

/-! ### The events of an invocation -/

theorem pinAt_of_lt {pins : List LineId} {i : Nat} (h : i < pins.length) :
    pinAt pins i = .ok (pins.getD i noneLine) := by
  simp [pinAt, h]

theorem getD_mem_of_lt {α : Type} {l : List α} {i : Nat} (h : i < l.length) (d : α) : l.getD i d ∈ l := by
  rw [List.getD_eq_getElem _ _ h]
  exact List.getElem_mem h

theorem Quad.exists_get? {α : Type} (q : Quad α) {c : Nat} (hc : c < 4) : ∃ a, q.get? c = some a := by
  interval_cases c <;> exact ⟨_, rfl⟩

/-- The events of step 5 for plane c, with the bits the cells show (R147 to R149). -/
def planeEvents (s : State) (c : Nat) : List GpioOp :=
  match (s.srPins.get? c).filter SrTriple.wired with
  | some t => srLoadOps s.params.srOrder t ((List.range s.colCount).map (shownBit s c))
  | none => (List.range s.colCount).map fun j => drive (s.colPins.getD (colIdx s c j) noneLine) (shownBit s c j)

/-- The events of an invocation (R144, R146, R150, R151). -/
def invocationEvents (s : State) : List GpioOp :=
  [.driveHigh (s.rowPins.getD (oldRow s) noneLine)] ++ (List.range s.planeCount).flatMap (planeEvents s) ++
    [.driveLow (s.rowPins.getD s.curRow.toNat noneLine)]

theorem planeEvents_wired {s : State} {c : Nat} {t : SrTriple} (ht : s.srPins.get? c = some t)
    (hw : t.wired = true) :
    planeEvents s c = srLoadOps s.params.srOrder t ((List.range s.colCount).map (shownBit s c)) := by
  rw [planeEvents, ht, Option.filter_some_pos hw]

theorem planeEvents_direct {s : State} {c : Nat} {t : SrTriple} (ht : s.srPins.get? c = some t)
    (hw : t.wired = false) :
    planeEvents s c =
      (List.range s.colCount).map fun j => drive (s.colPins.getD (colIdx s c j) noneLine) (shownBit s c j) := by
  rw [planeEvents, ht, Option.filter_some_neg (by simp [hw])]

section

variable {s : State} (h : Inv s) (hl : s.lc = .running)
include h hl

/-- A plane is wired by its triple or it is DIRECT (43_controller_config.md R184). -/
theorem Inv.wired_or_direct {c : Nat} (hc : c < s.planeCount) :
    ∃ t, s.srPins.get? c = some t ∧ (t.wired = true ∨ t.wired = false ∧ direct s c = true) := by
  obtain ⟨-, -, -, -, -, hmax⟩ := h.geometryLegal (.inr hl)
  obtain ⟨t, ht⟩ := Quad.exists_get? s.srPins (hc.trans_le hmax)
  obtain ⟨-, -, -, -, htriples, -⟩ := beginFailure_eq_none.mp (h.validated hl)
  have hplane := List.all_eq_true.mp htriples c (List.mem_range.mpr hc)
  refine ⟨t, ht, ?_⟩
  cases hw : t.wired
  · exact .inr ⟨rfl, by simpa [srWired, ht, hw] using hplane⟩
  · exact .inl rfl

/-- Every column index of a DIRECT plane is in the table (R147, R160). -/
theorem Inv.colIdx_lt {c j : Nat} (hc : c < s.planeCount) (hd : direct s c = true) (hj : j < s.colCount) :
    colIdx s c j < s.colPins.length := by
  obtain ⟨-, hcol, -⟩ := beginFailure_eq_none.mp (h.validated hl)
  have hany : anyDirect s = true := List.any_eq_true.mpr ⟨c, List.mem_range.mpr hc, hd⟩
  have hlen : s.colPins.length = s.colCount ∨ s.colPins.length = s.colCount * s.planeCount := by
    simpa [colLenOk, hany] using hcol
  unfold colIdx
  split
  · rename_i hper
    obtain ⟨hlen, -⟩ : s.colPins.length = s.colCount * s.planeCount ∧ 1 < s.planeCount := by
      simpa [columnsPerPlane] using hper
    rw [hlen, Nat.mul_comm s.colCount]
    exact rowMajor_lt (p := (c, j)) hc hj
  · rename_i hper
    rcases hlen with hlen | hlen
    · exact hlen ▸ hj
    · have hone : s.planeCount = 1 := by
        have : ¬1 < s.planeCount := by simpa [columnsPerPlane, hlen] using hper
        omega
      rwa [hlen, hone, Nat.mul_one]

theorem Inv.oldRow_lt : oldRow s < s.rowCount := by
  obtain ⟨hpos, -⟩ := h.geometryLegal (.inr hl)
  have hrow := h.cursor hl
  unfold oldRow
  split <;> omega

theorem Inv.rowBits_eq (c : Nat) : rowBits s c = .ok ((List.range s.colCount).map (shownBit s c)) := by
  refine collect_eq_ok_map fun j hj => ?_
  obtain ⟨v, hv⟩ := h.cell (h.cursor hl) (List.mem_range.mp hj)
  simp [readCell, cellIndex, memRead_eq_ok.mpr hv, shownBit, hv, planeBit]

theorem Inv.planeOps_eq {c : Nat} (hc : c < s.planeCount) : planeOps s c = .ok (planeEvents s c) := by
  obtain ⟨t, ht, hw | ⟨hw, hd⟩⟩ := h.wired_or_direct hl hc
  · simp [planeOps, ht, h.rowBits_eq hl, hw, planeEvents_wired ht hw]
  · simp only [planeOps, ht, h.rowBits_eq hl, hw, planeEvents_direct ht hw]
    refine collect_eq_ok_map fun j hj => ?_
    have hj := List.mem_range.mp hj
    simp [pinAt_of_lt (h.colIdx_lt hl hc hd hj), hj]

/-- An invocation always has its events (R160). -/
theorem Inv.invocationOps_eq : invocationOps s = .ok (invocationEvents s) := by
  obtain ⟨hrows, -⟩ := beginFailure_eq_none.mp (h.validated hl)
  have hplanes : collect (planeOps s) (List.range s.planeCount) = .ok ((List.range s.planeCount).map (planeEvents s)) :=
    collect_eq_ok_map fun c hc => h.planeOps_eq hl (List.mem_range.mp hc)
  simp only [invocationOps, pinAt_of_lt (hrows ▸ h.oldRow_lt hl), hplanes, pinAt_of_lt (hrows ▸ h.cursor hl),
    invocationEvents, List.flatMap_def]

theorem Inv.planeEvents_line {c : Nat} (hc : c < s.planeCount) {op : GpioOp} (hop : op ∈ planeEvents s c) :
    op.line ∈ s.colPins ++ srLines s := by
  obtain ⟨t, ht, hw | ⟨hw, hd⟩⟩ := h.wired_or_direct hl hc
  · rw [planeEvents_wired ht hw] at hop
    exact List.mem_append_right _ (mem_srLines.mpr ⟨t, mem_wiredTriples.mpr ⟨c, hc, ht, hw⟩, srLoadOps_line hop⟩)
  · rw [planeEvents_direct ht hw] at hop
    obtain ⟨j, hj, rfl⟩ := List.mem_map.mp hop
    have hpin := getD_mem_of_lt (h.colIdx_lt hl hc hd (List.mem_range.mp hj)) noneLine
    refine List.mem_append_left _ ?_
    cases shownBit s c j <;> exact hpin

/-- The events name lines in use only (40_gpio_shiftreg.md R115). -/
theorem Inv.invocationEvents_line {op : GpioOp} (hop : op ∈ invocationEvents s) : op.line ∈ usedLines s := by
  obtain ⟨hrows, -⟩ := beginFailure_eq_none.mp (h.validated hl)
  have hrow {r : Nat} (hr : r < s.rowCount) : s.rowPins.getD r noneLine ∈ usedLines s :=
    List.mem_append_left _ (List.mem_append_left _ (getD_mem_of_lt (hrows ▸ hr) noneLine))
  simp only [invocationEvents, List.mem_append, List.mem_singleton, List.mem_flatMap, List.mem_range] at hop
  rcases hop with (rfl | ⟨c, hc, hop⟩) | rfl
  · exact hrow (h.oldRow_lt hl)
  · rw [usedLines, List.append_assoc]
    exact List.mem_append_right _ (h.planeEvents_line hl hc hop)
  · exact hrow (h.cursor hl)

/-- An ENGINE step in RUNNING succeeds: every line it drives is configured (R160, 40_gpio_shiftreg.md R115). -/
theorem Inv.exists_engineStep : ∃ t, Machine.engineStep s = .next t := by
  have hready : ∀ op ∈ invocationEvents s,
      op.line ≠ noneLine ∧ (lineAt (engineStart s) op.line).mode = .output := fun op hop => by
    rw [lineAt_congr (engineStart_lines s)]
    exact h.ready hl _ (h.invocationEvents_line hl hop)
  obtain ⟨u, hu⟩ := emitAll_ready_ok hready
  exact ⟨_, engineStep_next.mpr ⟨_, u, invocationOps_engineStart s ▸ h.invocationOps_eq hl, hu, rfl⟩⟩

/-- An ENGINE step appends its events to TRACE. -/
theorem Inv.engineStep_trace {t : State} (ht : Machine.engineStep s = .next t) :
    t.trace = s.trace ++ (invocationEvents s).map eventWord := by
  obtain ⟨ops, u, hops, hu, rfl⟩ := engineStep_eq ht
  obtain rfl : invocationEvents s = ops := Except.ok.inj ((h.invocationOps_eq hl).symm.trans hops)
  obtain ⟨L, g, rfl⟩ := emitAll_exists hu
  exact congrArg (· ++ _) (engineStart_trace s)

end

end Sys2Proof.Safety
end

section
/-! A display with every cell 0 stays dark (41_framebuffer.md R126, R137). -/

namespace Sys2Proof.Safety

open Sys2Proof.Machine

theorem mem_of_lookupKey_eq_some {α : Type} {k : Nat} {v : α} {m : List (Nat × α)} (h : lookupKey k m = some v) :
    (k, v) ∈ m := by
  induction m with
  | nil => cases h
  | cons p rest ih =>
    rw [lookupKey] at h
    split at h
    · cases h
      subst k
      exact List.mem_cons_self
    · exact List.mem_cons_of_mem p (ih h)

/-- Every cell is 0. -/
def Dark (s : State) : Prop := ∀ p ∈ s.fb, p.2 = 0

theorem Dark.shownBit {s : State} (h : Dark s) (c j : Nat) : shownBit s c j = false := by
  unfold Safety.shownBit
  cases hv : s.fb.read (s.curRow.toNat * s.colCount + j) with
  | none => simp
  | some v => simp [show v = 0 from h _ (mem_of_lookupKey_eq_some hv)]

/-- The lines that an invocation may drive to 1 for another reason than a bit shown. -/
def secondRoleLines (s : State) : List LineId :=
  s.rowPins ++ (wiredTriples s).map SrTriple.clock ++ (wiredTriples s).map SrTriple.latch

/-- An SR_LOAD of zeros drives only its clock and its latch to 1 (40_gpio_shiftreg.md R117). -/
theorem eq_clock_or_latch_of_driveHigh_mem {o : SrOrder} {t : SrTriple} {bits : List Bool}
    (hbits : ∀ b ∈ bits, b = false) {l : LineId} (h : .driveHigh l ∈ srLoadOps o t bits) :
    l = t.clock ∨ l = t.latch := by
  simp only [srLoadOps_eq, List.mem_append, List.mem_flatMap, List.mem_cons, List.not_mem_nil, or_false] at h
  rcases h with (h | ⟨b, hb, h | h | h⟩) | h
  · cases h
  · have hb : b = false := hbits b (by split at hb <;> simpa using hb)
    subst hb
    cases h
  · cases h
    exact .inl rfl
  · cases h
  · cases h
    exact .inr rfl

section

variable {s : State} (h : Inv s) (hl : s.lc = .running) (hdark : Dark s)
include h hl hdark

theorem Inv.driveHigh_mem_planeEvents {c : Nat} (hc : c < s.planeCount) {l : LineId}
    (hop : .driveHigh l ∈ planeEvents s c) : l ∈ secondRoleLines s := by
  obtain ⟨t, ht, hw | ⟨hw, -⟩⟩ := h.wired_or_direct hl hc
  · have hmem : t ∈ wiredTriples s := mem_wiredTriples.mpr ⟨c, hc, ht, hw⟩
    rw [planeEvents_wired ht hw] at hop
    rcases eq_clock_or_latch_of_driveHigh_mem (by simp [hdark.shownBit]) hop with rfl | rfl
    · exact List.mem_append_left _ (List.mem_append_right _ (List.mem_map_of_mem hmem))
    · exact List.mem_append_right _ (List.mem_map_of_mem hmem)
  · rw [planeEvents_direct ht hw] at hop
    obtain ⟨j, -, hj⟩ := List.mem_map.mp hop
    rw [hdark.shownBit] at hj
    cases hj

/-- Beside clocks and latches an invocation of a dark display drives only the old row to 1. -/
theorem Inv.driveHigh_mem_invocationEvents {l : LineId} (hop : .driveHigh l ∈ invocationEvents s) :
    l ∈ secondRoleLines s := by
  obtain ⟨hrows, -⟩ := beginFailure_eq_none.mp (h.validated hl)
  simp only [invocationEvents, List.mem_append, List.mem_singleton, List.mem_flatMap, List.mem_range] at hop
  rcases hop with (hop | ⟨c, hc, hop⟩) | hop
  · cases hop
    exact List.mem_append_left _ (List.mem_append_left _ (getD_mem_of_lt (hrows ▸ h.oldRow_lt hl) noneLine))
  · exact h.driveHigh_mem_planeEvents hl hdark hc hop
  · cases hop

theorem Inv.interrupt_keeps_dark {a : Agent} (ha : IsInterrupt a) {t : State} (ht : Machine.runAgent a s = .next t) :
    ∃ events, t.trace = s.trace ++ events ∧ ∀ l, l ∉ secondRoleLines s → hiWord l ∉ events := by
  rcases ha with rfl | rfl
  · cases ht
    exact ⟨[], by rw [tickStep_frame, List.append_nil], fun _ _ => List.not_mem_nil⟩
  · refine ⟨_, h.engineStep_trace hl ht, fun l hne hmem => hne ?_⟩
    obtain ⟨op, hop, heq⟩ := List.mem_map.mp hmem
    rw [← eventWord_driveHigh, eventWord_inj] at heq
    exact h.driveHigh_mem_invocationEvents hl hdark (heq ▸ hop)

end

theorem Inv.agentSteps_keep_dark {s t : State} (h : Inv s) (hl : s.lc = .running) (hdark : Dark s)
    (hsteps : AgentSteps IsInterrupt s t) :
    ∃ events, t.trace = s.trace ++ events ∧ ∀ l, l ∉ secondRoleLines s → hiWord l ∉ events := by
  induction hsteps with
  | refl s => exact ⟨[], (List.append_nil _).symm, fun _ _ => List.not_mem_nil⟩
  | @step s t u a ha he hs _ ih =>
    have hsame := runAgent_sansInterrupts ha hs
    have hlc : t.lc = s.lc := (congrArg State.lc hsame :)
    have hfb : t.fb = s.fb := (congrArg State.fb hsame :)
    have hlines : secondRoleLines t = secondRoleLines s := (congrArg secondRoleLines hsame :)
    obtain ⟨first, hfirst, hlow⟩ := h.interrupt_keeps_dark hl hdark ha hs
    obtain ⟨rest, hrest, hlow'⟩ := ih (h.runAgent he hs) (hlc.trans hl) (by rwa [Dark, hfb])
    refine ⟨first ++ rest, by rw [hrest, hfirst, List.append_assoc], fun l hne => ?_⟩
    exact List.not_mem_append (hlow l hne) (hlow' l (hlines ▸ hne))

/-- Settles O53, by induction on the steps: no bit shown is 1. -/
theorem clearedDisplayStaysDark : Obligations.ClearedDisplayStaysDark := by
  intro s t h hl hdark hsteps
  obtain ⟨events, htrace, hlow⟩ := h.agentSteps_keep_dark hl hdark hsteps
  exact ⟨events, htrace, fun l _ hne => hlow l hne⟩

end Sys2Proof.Safety
end

section
/-! A CLEAR among the turns of the other agents (41_framebuffer.md R131 to R133; 10_state.md R52, R60). -/

namespace Sys2Proof.Safety

open Sys2Proof.Machine

theorem runAgents_append_of_next {turns rest : List Agent} {s u : State} (h : runAgents turns s = .next u) :
    runAgents (turns ++ rest) s = runAgents rest u := by
  induction turns generalizing s with
  | nil =>
    cases h
    rfl
  | cons a turns ih =>
    rw [List.cons_append, runAgents]
    rw [runAgents] at h
    split at h
    · rw [if_pos ‹_›]
      split at h
      · exact ih h
      · cases h
      · cases h
    · rw [if_neg ‹_›]
      exact ih h

theorem runAgents_singleton {a : Agent} {s t : State} (he : agentEnabled a s = true) (h : runAgent a s = .next t) :
    runAgents [a] s = .next t := by
  simp [runAgents, he, h]

/-- State `u` comes after `s` in a CLEAR that has gone from cell i on to cell k, while the host waits. -/
structure ClearedUpTo (s : State) (i k : Nat) (u : State) : Prop where
  inv : Inv u
  index : u.clearIdx = some k
  queue : u.hostQueue = s.hostQueue
  cells : u.cellCount = s.cellCount
  zero : ∀ j, i ≤ j → j < k → u.fb.read j = some 0

namespace ClearedUpTo

variable {s u : State} {i k : Nat} (h : ClearedUpTo s i k u)
include h

/-- The cell a CLEAR has come to exists. -/
theorem cell : (u.fb.read k).isSome = true := by
  obtain ⟨-, hlt, -⟩ := h.inv.clearing k h.index
  rw [Memory.read, lookupKey_isSome_iff, h.inv.cells]
  exact List.mem_range.mpr hlt

/-- TICK and ENGINE do not touch what CLEAR works on. -/
theorem interrupt {a : Agent} (ha : IsInterrupt a) (he : agentEnabled a u = true) {t : State}
    (ht : runAgent a u = .next t) : ClearedUpTo s i k t := by
  have hsame := runAgent_sansInterrupts ha ht
  have hindex : t.clearIdx = u.clearIdx := (congrArg State.clearIdx hsame :)
  have hqueue : t.hostQueue = u.hostQueue := (congrArg State.hostQueue hsame :)
  have hcells : t.cellCount = u.cellCount := (congrArg State.cellCount hsame :)
  have hfb : t.fb = u.fb := (congrArg State.fb hsame :)
  exact ⟨h.inv.runAgent he ht, hindex.trans h.index, hqueue.trans h.queue, hcells.trans h.cells, hfb ▸ h.zero⟩

/-- A step that zeroes cell k leaves the cells from i to k at 0. -/
theorem zero_of_read {t : State} (hread : ∀ j, t.fb.read j = if j = k then some 0 else u.fb.read j) {j : Nat}
    (hij : i ≤ j) (hjk : j < k + 1) : t.fb.read j = some 0 := by
  rw [hread]
  split
  · rfl
  · exact h.zero j hij (by omega)

/-- One CLEAR step before the last one. -/
theorem clear (hk : k + 1 < s.cellCount) : ∃ t, runAgent .clear u = .next t ∧ ClearedUpTo s i (k + 1) t := by
  obtain ⟨t, ht, hread, -, hmore⟩ := clearStepZeroesOneCell u k h.index h.cell
  have htu := hmore (hk.ne.trans_eq h.cells.symm)
  exact ⟨t, ht, {
    inv := h.inv.clearStep ht
    index := congrArg State.clearIdx htu
    queue := (congrArg State.hostQueue htu).trans h.queue
    cells := (congrArg State.cellCount htu).trans h.cells
    zero := fun _ => h.zero_of_read hread }⟩

/-- The last CLEAR step answers (R132). -/
theorem last (hk : k + 1 = s.cellCount) :
    ∃ t, runAgent .clear u = .next t ∧ t.clearIdx = none ∧ t.response = some ⟨.ok, 0⟩ ∧
      t.hostQueue = s.hostQueue ∧ ∀ j, i ≤ j → j < s.cellCount → t.fb.read j = some 0 := by
  obtain ⟨t, ht, hread, hlast, -⟩ := clearStepZeroesOneCell u k h.index h.cell
  have htu := hlast (hk.trans h.cells.symm)
  refine ⟨t, ht, congrArg State.clearIdx htu, congrArg State.response htu,
    (congrArg State.hostQueue htu).trans h.queue, fun j hij hjn => h.zero_of_read hread hij (hk ▸ hjn)⟩

/-- One turn of any agent but RESET: it takes the CLEAR one cell on if it is CLEAR's, else leaves it where it is. -/
theorem turn {a : Agent} (ha : a ≠ .reset) (hk : k + [a].count .clear < s.cellCount) :
    ∃ t, runAgents [a] u = .next t ∧ ClearedUpTo s i (k + [a].count .clear) t := by
  have hclear : agentEnabled .clear u = true := clear_enabled_iff.mpr (by simp [h.index])
  cases a with
  | host =>
    have hbusy : ¬agentEnabled .host u = true := by simp [host_enabled_iff, h.index]
    exact ⟨u, if_neg hbusy, h⟩
  | clear =>
    obtain ⟨t, ht, hcleared⟩ := h.clear hk
    exact ⟨t, runAgents_singleton hclear ht, hcleared⟩
  | tick =>
    by_cases he : agentEnabled .tick u = true
    · exact ⟨_, runAgents_singleton he rfl, h.interrupt (.inl rfl) he rfl⟩
    · exact ⟨u, if_neg he, h⟩
  | engine =>
    by_cases he : agentEnabled .engine u = true
    · obtain ⟨-, hl, -⟩ := engine_enabled_iff.mp he
      obtain ⟨t, ht⟩ := h.inv.exists_engineStep hl
      exact ⟨t, runAgents_singleton he ht, h.interrupt (.inr rfl) he ht⟩
    · exact ⟨u, if_neg he, h⟩
  | reset => exact absurd rfl ha

end ClearedUpTo

/-- Before its last step a CLEAR has gone as many cells on as CLEAR has had turns. -/
theorem Inv.clearedUpTo {s : State} (h : Inv s) {i : Nat} (hi : s.clearIdx = some i) {turns : List Agent}
    (hreset : .reset ∉ turns) (hcount : i + turns.count .clear < s.cellCount) :
    ∃ u, runAgents turns s = .next u ∧ ClearedUpTo s i (i + turns.count .clear) u := by
  induction turns using List.reverseRecOn with
  | nil => exact ⟨s, rfl, h, hi, rfl, rfl, fun j hij hji => absurd hij (by simpa using hji)⟩
  | append_singleton turns a ih =>
    rw [List.count_append, ← Nat.add_assoc] at hcount ⊢
    obtain ⟨hreset, ha⟩ := not_or.mp (List.mem_append.not.mp hreset)
    obtain ⟨u, hu, hcleared⟩ := ih hreset (by omega)
    obtain ⟨t, ht, hcleared⟩ := hcleared.turn (fun hr => ha (hr ▸ List.mem_singleton_self a)) hcount
    exact ⟨t, (runAgents_append_of_next hu).trans ht, hcleared⟩

/-- Settles O32: the turns bring the CLEAR to the last cell, whose step answers. -/
theorem clearAnsweredByItsLastStep : Obligations.ClearAnsweredByItsLastStep := by
  intro s i turns h hi hreset hcount
  obtain ⟨u, hu, hcleared⟩ := h.clearedUpTo hi hreset (by omega)
  have hindex := hcleared.index
  obtain ⟨-, -, hresponse⟩ := hcleared.inv.clearing _ hindex
  obtain ⟨t, ht, hdone⟩ := hcleared.last (by omega)
  have hclear : agentEnabled .clear u = true := clear_enabled_iff.mpr (by simp [hindex])
  exact ⟨⟨u, hu, hindex.trans (congrArg some (by omega)), hresponse⟩, t,
    (runAgents_append_of_next hu).trans (runAgents_singleton hclear ht), hdone⟩

end Sys2Proof.Safety
end

section
/-! Every step from a state that meets the invariant answers: the commands, BEGIN's initialisation, the CLEAR step and
the engine (40_gpio_shiftreg.md R115, 42_refresh_engine.md R160, 60_exceptions.md R201). -/

namespace Sys2Proof.Machine

/-! ### BEGIN's initialisation succeeds -/

/-- The primitives succeed whatever lines are configured before. -/
def Emits (ops : List GpioOp) : Prop := ∀ s, ∃ t, emitAll ops s = .ok t

theorem Emits.append {a b : List GpioOp} (ha : Emits a) (hb : Emits b) : Emits (a ++ b) := by
  intro s
  obtain ⟨t, ht⟩ := ha s
  obtain ⟨u, hu⟩ := hb t
  exact ⟨u, emitAll_append_ok.mpr ⟨t, ht, hu⟩⟩

theorem Emits.flatMap {α : Type} {f : α → List GpioOp} {l : List α} (h : ∀ a ∈ l, Emits (f a)) :
    Emits (l.flatMap f) := by
  induction l with
  | nil => exact fun s => ⟨s, rfl⟩
  | cons a l ih =>
    obtain ⟨ha, hl⟩ := List.forall_mem_cons.mp h
    exact ha.append (ih hl)

/-- Primitives on lines that `a` configures succeed after `a`. -/
theorem Emits.append_configured {a b : List GpioOp} (ha : Emits a)
    (hb : ∀ op ∈ b, op.line ≠ noneLine ∧ .cfgOut op.line ∈ a) : Emits (a ++ b) := by
  intro s
  obtain ⟨t, ht⟩ := ha s
  obtain ⟨u, hu⟩ := emitAll_ready_ok (s := t) fun op hop =>
    ⟨(hb op hop).1, emitAll_keeps_mode ht (.inl ⟨_, (hb op hop).2, rfl⟩)⟩
  exact ⟨u, emitAll_append_ok.mpr ⟨t, ht, hu⟩⟩

@[simp] theorem line_drive (l : LineId) (b : Bool) : (drive l b).line = l := by cases b <;> rfl

theorem emits_configure {l : LineId} (h : l ≠ noneLine) (b : Bool) : Emits (configure l b) := by
  have hcfg : Emits [.cfgOut l] := fun s =>
    have ⟨t, ht⟩ := emit_cfgOut_ok s h
    ⟨t, emitAll_cons_ok.mpr ⟨t, ht, rfl⟩⟩
  exact hcfg.append_configured (b := [drive l b]) (by simpa using h)

theorem emits_planeInitOps (s : State) (c : Nat) : Emits (planeInitOps s c) := by
  unfold planeInitOps
  split
  · rename_i t ht
    split
    · rename_i hw
      obtain ⟨⟨hdata, hclock⟩, hlatch⟩ : (t.data ≠ noneLine ∧ t.clock ≠ noneLine) ∧ t.latch ≠ noneLine := by
        simpa [SrTriple.wired] using hw
      refine (((emits_configure hdata _).append (emits_configure hclock _)).append
        (emits_configure hlatch _)).append_configured fun op hop => ?_
      rcases srLoadOps_line hop with h | h | h <;> simp [h, hdata, hclock, hlatch, configure]
    · exact fun s => ⟨s, rfl⟩
  · exact fun s => ⟨s, rfl⟩

/-- BEGIN configures each line before it drives it (43_controller_config.md R186). -/
theorem emits_beginOps {s : State} (h : beginFailure s = none) : Emits (beginOps s) := by
  obtain ⟨-, -, hrow, hcol, -⟩ := beginFailure_eq_none.mp h
  have hconfigure {pins : List LineId} (hpins : noneLine ∉ pins) (b : Bool) :
      Emits (pins.flatMap fun l => configure l b) :=
    .flatMap fun l hl => emits_configure (fun hn => hpins (hn ▸ hl)) b
  exact ((hconfigure hrow true).append (hconfigure hcol false)).append (.flatMap fun c _ => emits_planeInitOps s c)

/-! ### The commands -/

theorem guarded_answers {k : CommandClass} {s : State} {body : Host.Outcome State Fault Refusal}
    (h : legalIn k s.lc = true → ∃ t, body = .next t) : ∃ t, guarded k s body = .next t := by
  unfold guarded
  split
  · exact h ‹_›
  · split <;> exact ⟨_, rfl⟩

theorem execBegin_answers (s : State) : ∃ t, execBegin s = .next t := by
  refine guarded_answers fun _ => ?_
  split
  · exact ⟨_, rfl⟩
  · obtain ⟨t, ht⟩ := emits_beginOps ‹_› s
    exact ⟨_, by rw [ht]⟩

end Sys2Proof.Machine

namespace Sys2Proof.Safety

open Sys2Proof.Machine

theorem Inv.execFbwr_answers {s : State} (h : Inv s) (row : BitVec 5) (col : BitVec 6) (v : CellValue) :
    ∃ t, execFbwr row col v s = .next t := by
  refine guarded_answers fun _ => ?_
  split
  · obtain ⟨hr, hc⟩ := inRange_iff.mp ‹_›
    have hm := (lookupKey_isSome_iff _ _).mp (Option.isSome_iff_exists.mpr (h.cell hr hc))
    exact ⟨_, by rw [cellIndex, memWrite_of_mem v hm]⟩
  · exact ⟨_, rfl⟩

theorem Inv.execFbrd_answers {s : State} (h : Inv s) (row : BitVec 5) (col : BitVec 6) :
    ∃ t, execFbrd row col s = .next t := by
  refine guarded_answers fun _ => ?_
  split
  · obtain ⟨hr, hc⟩ := inRange_iff.mp ‹_›
    obtain ⟨v, hv⟩ := h.cell hr hc
    exact ⟨_, by rw [readCell, cellIndex, memRead_eq_ok.mpr hv]⟩
  · exact ⟨_, rfl⟩

/-- Every command answers: FBWR and FBRD find their cell, BEGIN its lines configured. -/
theorem Inv.exec_answers {s : State} (h : Inv s) {i : Instr} (hi : i.isCommand = true) : ∃ t, exec i s = .next t := by
  cases i with
  | construct =>
    refine guarded_answers fun _ => ?_
    split
    · split <;> exact ⟨_, rfl⟩
    · exact ⟨_, rfl⟩
  | rowpin | colpin | srpins => exact guarded_answers fun _ => by split <;> exact ⟨_, rfl⟩
  | begin => exact execBegin_answers s
  | fbwr row col v => exact h.execFbwr_answers row col v
  | fbrd row col => exact h.execFbrd_answers row col
  | period | clear | writedisplay => exact guarded_answers fun _ => ⟨_, rfl⟩
  | rdruntime | rdlatency | rdstatus | rdperiod | rdcursor | rdtables => exact ⟨_, rfl⟩
  | gpioCfgOut | gpioDriveLow | gpioDriveHigh => cases hi

theorem Inv.acceptWord_answers {s : State} (h : Inv s) (w : CommandWord) : ∃ t, Machine.acceptWord w s = .next t := by
  unfold Machine.acceptWord
  split
  · exact h.exec_answers (decodeCommand_isCommand ‹_›)
  · exact ⟨_, rfl⟩

/-! ### The agents -/

/-- The cell a CLEAR has come to exists (41_framebuffer.md R132). -/
theorem Inv.clearStep_answers {s : State} (h : Inv s) {i : Nat} (hi : s.clearIdx = some i) :
    ∃ t, Machine.clearStep s = .next t := by
  obtain ⟨-, hlt, -⟩ := h.clearing i hi
  obtain ⟨t, ht, -⟩ := clearStepZeroesOneCell s i hi
    ((lookupKey_isSome_iff _ _).mpr (h.cells ▸ List.mem_range.mpr hlt))
  exact ⟨t, ht⟩

/-- An enabled agent's step answers. -/
theorem Inv.runAgent_answers {a : Agent} {s : State} (h : Inv s) (ha : agentEnabled a s = true) :
    ∃ t, Machine.runAgent a s = .next t := by
  cases a with
  | host =>
    obtain ⟨hq, -⟩ := host_enabled_iff.mp ha
    obtain ⟨w, q, hwq⟩ := List.exists_cons_of_ne_nil hq
    rw [Machine.runAgent, hostStep, hwq]
    exact (h.environment q s.draws s.schedule s.round).acceptWord_answers w
  | clear =>
    obtain ⟨i, hi⟩ := Option.ne_none_iff_exists'.mp (clear_enabled_iff.mp ha)
    exact h.clearStep_answers hi
  | tick => exact ⟨_, rfl⟩
  | engine =>
    obtain ⟨-, hl, -⟩ := engine_enabled_iff.mp ha
    exact h.exists_engineStep hl
  | reset => exact ⟨_, rfl⟩

/-- Settles O13: choosing a turn keeps the invariant, and the chosen agent is enabled. -/
theorem everyStepFromInvAnswersNext : Obligations.EveryStepFromInvAnswersNext := fun s h =>
  h.chooseTurn.runAgent_answers ((chooseTurn_keeps_enabled s _).trans (chooseTurn_enabled s))

end Sys2Proof.Safety
end

section
/-! The registers of one invocation, its timing and the cycle of bit-planes (42_refresh_engine.md R143 to R157;
60_exceptions.md R216 to R221). -/

namespace Sys2Proof.Safety

open Sys2Proof.Machine

/-! ### PERIOD in RUNNING (43_controller_config.md R187, 10_state.md R37) -/

theorem periodEntry_toNat {s : State} (h : s.ptable = periodTable s.base) (b : BitVec 2) :
    (periodEntry s b).toNat = s.base.toNat * 2 ^ b.toNat := by
  rw [← periodTable_at_toNat s.base b.isLt, BitVec.ofNat_toNat, BitVec.setWidth_eq, periodEntry, h]
  exact BitVec.toNat_setWidth_of_le (by decide)

/-! ### The registers after an invocation -/

theorem cfgOut_ne_drive (l m : LineId) (b : Bool) : .cfgOut l ≠ drive m b := by cases b <;> nofun

theorem cfgOut_not_mem_planeEvents (s : State) (c : Nat) (l : LineId) : .cfgOut l ∉ planeEvents s c := by
  unfold planeEvents
  split
  · simp [srLoadOps, cfgOut_ne_drive]
  · simp [(cfgOut_ne_drive _ _ _).symm]

/-- An invocation drives lines and configures none. -/
theorem cfgOut_not_mem_invocationEvents (s : State) (l : LineId) : .cfgOut l ∉ invocationEvents s := by
  simp [invocationEvents, cfgOut_not_mem_planeEvents]

section

variable {s : State} (h : Inv s) (hl : s.lc = .running)
include h hl

theorem Inv.period_toNat : s.period.toNat = s.base.toNat * 2 ^ s.slot.toNat := by
  obtain ⟨hptable, hperiod⟩ := h.periods hl
  rw [hperiod, periodEntry_toNat hptable]

theorem Inv.period_pos : 0 < s.period := by
  obtain ⟨-, -, -, -, -, hbase⟩ := beginFailure_eq_none.mp (h.validated hl)
  have hpos : 0 < s.base.toNat := Nat.pos_of_ne_zero fun h0 => hbase (BitVec.eq_of_toNat_eq h0)
  exact BitVec.lt_def.mpr (h.period_toNat hl ▸ Nat.mul_pos hpos (Nat.two_pow_pos _))

/-- At row 0 an invocation takes SLOT from the cursor, and in mid-sweep SLOT is the cursor's bit-plane already. -/
theorem Inv.shown_slot : (if s.curRow = 0 then s.curPlane else s.slot) = s.curPlane := by
  split
  · rfl
  · exact (h.sweep hl).1 ‹_›

/-- An ENGINE step as one update of the registers; it draws a runtime and no level. -/
theorem Inv.engineStep_registers {t : State} (ht : Machine.engineStep s = .next t) :
    t = { s with
      irqPending := false, latency := s.now - s.lastStart, lastStart := s.now,
      period := if s.curRow = 0 then periodEntry s s.curPlane else s.period,
      slot := if s.curRow = 0 then s.curPlane else s.slot,
      curRow := if s.curRow.toNat + 1 = s.rowCount then 0 else s.curRow + 1,
      curPlane := if s.curRow.toNat + 1 = s.rowCount then s.curPlane + 1 else s.curPlane,
      runtime := Config.runtimeDraw s.draws.runtime,
      draws := { s.draws with runtime := s.draws.runtime + 1 },
      lines := t.lines, trace := t.trace } := by
  obtain ⟨ops, u, hops, hu, rfl⟩ := engineStep_eq ht
  obtain rfl : invocationEvents s = ops := Except.ok.inj ((h.invocationOps_eq hl).symm.trans hops)
  have hdraws : u.draws = s.draws := (emitAll_draws hu (cfgOut_not_mem_invocationEvents s)).trans (engineStart_draws s)
  rw [hdraws]

end

/-- Settles O46: in RUNNING the invocation always succeeds, and its frame gives the registers. -/
theorem engineRegisters : Obligations.EngineRegisters := by
  intro s h hl
  obtain ⟨t, ht⟩ := h.exists_engineStep hl
  exact ⟨t, ht, h.engineStep_registers hl ht⟩

/-! ### The timing with PROMPT_DISPATCH (R156) -/

/-- A start, of the timer by BEGIN or of an invocation: no request, COUNT 0 and LAST_START = NOW. -/
theorem Inv.promptTiming_of_start {s : State} (h : Inv s) (hirq : s.irqPending = false) (hcount : s.count = 0)
    (hstart : s.lastStart = s.now) : PromptTiming s := by
  intro _ hl
  rw [hirq, hcount, hstart]
  exact ⟨(BitVec.add_zero _).symm, h.period_pos hl⟩

/-- Of the commands only BEGIN touches the timing, and it is a start. -/
theorem PromptTiming.commandEffect {i : Instr} {s t : State} (h : PromptTiming s) (ht : Inv t)
    (he : CommandEffect i s t) : PromptTiming t := by
  cases he with
  | answered | configured | clearing => exact h
  | written k v u hu =>
    obtain ⟨m, -, rfl⟩ := memWrite_eq_ok.mp hu
    exact h
  | halted | allocated => exact fun _ => nofun
  | launched => exact ht.promptTiming_of_start rfl rfl rfl

/-- An enabled TICK counts on, or expires when NOW reaches LAST_START + PERIOD. -/
theorem PromptTiming.tickStep {s : State} (h : PromptTiming s) (hinv : Inv s)
    (he : agentEnabled .tick s = true) : PromptTiming (tickStep s) := by
  intro hp hl
  rw [tickStep_frame] at hp hl
  have hirq : s.irqPending = false := Bool.eq_false_iff.mpr fun hq => tick_enabled_iff.mp he ⟨hp, hq, hl⟩
  obtain ⟨hnow, hcount⟩ : s.now = s.lastStart + s.count ∧ s.count < s.period := by simpa [hirq] using h hp hl
  rcases tickStep_cases s with ⟨hten, e⟩ | ⟨-, hexp, e⟩ | ⟨-, hmore, e⟩ <;> rw [e]
  · exact absurd (hinv.timerOn.mpr hl) (by simp [hten])
  · have hperiod : s.period = s.count + 1 := by bv_omega
    exact ⟨rfl, by rw [hnow, hperiod, BitVec.add_assoc]⟩
  · simp only [hirq]
    exact ⟨by rw [hnow, BitVec.add_assoc], hmore⟩

theorem PromptTiming.acceptWord {w : CommandWord} {s t : State} (h : PromptTiming s) (hinv : Inv t)
    (ht : acceptWord w s = .next t) : PromptTiming t := by
  rcases acceptWord_effect ht with ⟨i, -, he⟩ | rfl
  · exact h.commandEffect hinv he
  · exact h

/-- An enabled ENGINE step is a start: its request has waited at COUNT 0. -/
theorem PromptTiming.engineStep {s t : State} (h : PromptTiming s) (hinv : Inv s) (he : agentEnabled .engine s = true)
    (ht : Machine.engineStep s = .next t) : PromptTiming t := by
  obtain ⟨hirq, hl, -⟩ := engine_enabled_iff.mp he
  have hinv' := hinv.engineStep hl ht
  rw [hinv.engineStep_registers hl ht] at hinv' ⊢
  intro hp _
  obtain ⟨hcount, -⟩ : s.count = 0 ∧ s.now = s.lastStart + s.period := by simpa [hirq] using h hp hl
  exact hinv'.promptTiming_of_start rfl hcount rfl hp hl

/-- The step of an enabled agent keeps the timing. -/
theorem PromptTiming.runAgent {a : Agent} {s t : State} (h : PromptTiming s) (hinv : Inv s)
    (he : agentEnabled a s = true) (ht : Machine.runAgent a s = .next t) : PromptTiming t := by
  have hinv' := hinv.runAgent he ht
  cases a with
  | host =>
    obtain ⟨w, q, -, hw⟩ := hostStep_next ht
    have hq : PromptTiming { s with hostQueue := q } := h
    exact hq.acceptWord hinv' hw
  | clear =>
    rw [clearStep_frame ht]
    exact h
  | tick =>
    cases ht
    exact h.tickStep hinv he
  | engine => exact h.engineStep hinv he ht
  | reset =>
    cases ht
    exact fun _ => nofun

/-- Settles O44: choosing a turn touches none of the timing, and the chosen agent, which is enabled, keeps it. -/
theorem stepKeepsPromptTiming : Obligations.StepKeepsPromptTiming := by
  intro s t hinv h ht
  have hchosen : PromptTiming (chooseTurn s).2 := by
    obtain ⟨rest, r, n, hframe⟩ := chooseTurn_frame s
    rw [hframe]
    exact h
  exact hchosen.runAgent hinv.chooseTurn ((chooseTurn_keeps_enabled s _).trans (chooseTurn_enabled s)) ht

/-- Settles O45: the request has waited since LAST_START + PERIOD, and PERIOD is the weight of SLOT. -/
theorem promptLatencyIsPlaneWeight : Obligations.PromptLatencyIsPlaneWeight := by
  intro s hinv h hp he
  obtain ⟨hirq, hl, -⟩ := engine_enabled_iff.mp he
  obtain ⟨-, hnow⟩ : s.count = 0 ∧ s.now = s.lastStart + s.period := by simpa [hirq] using h hp hl
  obtain ⟨t, ht, hregs⟩ := engineRegisters s hinv hl
  have hlatency : t.latency = s.now - s.lastStart := by rw [hregs]
  have hslot : t.slot = if s.curRow = 0 then s.curPlane else s.slot := by rw [hregs]
  refine ⟨t, ht, ?_, by rw [hregs], hslot.trans (hinv.shown_slot hl)⟩
  rw [hlatency, hnow, BitVec.add_comm, BitVec.add_sub_cancel, hinv.period_toNat hl]

/-! ### The cycle (R152, R157) -/

theorem invocations_succ_of_next {n : Nat} {s u : State} (h : Machine.engineStep s = .next u) :
    invocations (n + 1) s = invocations n u := by
  rw [invocations, h]

theorem invocations_add {m n : Nat} {s u : State} (h : invocations m s = .next u) :
    invocations (m + n) s = invocations n u := by
  induction m generalizing s with
  | zero =>
    cases h
    rw [Nat.zero_add]
  | succ m ih =>
    rw [invocations] at h
    rw [Nat.succ_add, invocations]
    split at h
    · exact ih h
    · cases h
    · cases h

/-- An invocation moves the cursor and leaves its own bit-plane in SLOT. -/
theorem Inv.exists_invocation {s : State} (h : Inv s) (hl : s.lc = .running) :
    ∃ t, Machine.engineStep s = .next t ∧ Inv t ∧ t.lc = .running ∧ t.rowCount = s.rowCount ∧ t.slot = s.curPlane ∧
      t.curRow = (if s.curRow.toNat + 1 = s.rowCount then 0 else s.curRow + 1) ∧
      t.curPlane = if s.curRow.toNat + 1 = s.rowCount then s.curPlane + 1 else s.curPlane := by
  obtain ⟨t, ht⟩ := h.exists_engineStep hl
  have hregs := h.engineStep_registers hl ht
  exact ⟨t, ht, h.engineStep hl ht, (congrArg State.lc hregs).trans hl, (congrArg State.rowCount hregs :),
    (congrArg State.slot hregs).trans (h.shown_slot hl), congrArg State.curRow hregs, congrArg State.curPlane hregs⟩

/-- State `t` stands at row 0 of bit-plane `b`, the sweep of bit-plane `shown` just ended, and has `rows` rows. -/
structure SweepEnd (rows : Nat) (b shown : BitVec 2) (t : State) : Prop where
  inv : Inv t
  lc : t.lc = .running
  rowCount : t.rowCount = rows
  curRow : t.curRow = 0
  curPlane : t.curPlane = b
  slot : t.slot = shown

/-- The invocations from any row up to the last one end the sweep. -/
theorem Inv.rest_of_sweep {s : State} (h : Inv s) (hl : s.lc = .running) {n : Nat}
    (hn : s.curRow.toNat + n + 1 = s.rowCount) :
    ∃ t, invocations (n + 1) s = .next t ∧ SweepEnd s.rowCount (s.curPlane + 1) s.curPlane t := by
  induction n generalizing s with
  | zero =>
    obtain ⟨t, ht, hinv, hlc, hrows, hslot, hrow, hplane⟩ := h.exists_invocation hl
    rw [if_pos hn] at hrow hplane
    exact ⟨t, invocations_succ_of_next ht, hinv, hlc, hrows, hrow, hplane, hslot⟩
  | succ n ih =>
    obtain ⟨u, hu, hinv, hlc, hrows, -, hrow, hplane⟩ := h.exists_invocation hl
    have hnot : s.curRow.toNat + 1 ≠ s.rowCount := by omega
    rw [if_neg hnot] at hrow hplane
    have hnext : u.curRow.toNat + n + 1 = u.rowCount := by
      rw [hrow, h.curRow_succ_toNat hl hnot, hrows]
      omega
    obtain ⟨t, ht, hend⟩ := ih hinv hlc hnext
    rw [hrows, hplane] at hend
    exact ⟨t, (invocations_succ_of_next hu).trans ht, hend⟩

/-- ROWS invocations from row 0 are one sweep (R152). -/
theorem Inv.sweep_closes {s : State} (h : Inv s) (hl : s.lc = .running) (hrow : s.curRow = 0) :
    ∃ t, invocations s.rowCount s = .next t ∧ SweepEnd s.rowCount (s.curPlane + 1) s.curPlane t := by
  obtain ⟨n, hn⟩ := Nat.exists_eq_add_one.mpr (h.geometryLegal (.inr hl)).1
  have hrest := h.rest_of_sweep hl (n := n) (by simp [hrow, hn])
  rwa [← hn] at hrest

/-- The sweeps of `k + 1` bit-planes lead to row 0 of the bit-plane `k + 1` further on. -/
theorem Inv.sweeps_close {s : State} (h : Inv s) (hl : s.lc = .running) (hrow : s.curRow = 0) (k : Nat) :
    ∃ t, invocations (s.rowCount * (k + 1)) s = .next t ∧
      SweepEnd s.rowCount (s.curPlane + BitVec.ofNat 2 (k + 1)) (s.curPlane + BitVec.ofNat 2 k) t := by
  induction k with
  | zero => simpa using h.sweep_closes hl hrow
  | succ k ih =>
    obtain ⟨u, hu, hinv, hlc, hrows, hrow, hplane, -⟩ := ih
    obtain ⟨t, ht, hend⟩ := hinv.sweep_closes hlc hrow
    rw [hrows] at ht hend
    have hnext : BitVec.ofNat 2 (k + 1) + 1 = BitVec.ofNat 2 (k + 1 + 1) := (BitVec.ofNat_add _ _).symm
    rw [hplane, BitVec.add_assoc, hnext] at hend
    exact ⟨t, (invocations_add hu).trans ht, hend⟩

/-- Settles O48: one sweep, and four sweeps. -/
theorem cycleClosure : Obligations.CycleClosure := by
  intro s h hl hrow
  obtain ⟨t, ht, hone⟩ := h.sweeps_close hl hrow 0
  obtain ⟨u, hu, hfour⟩ := h.sweeps_close hl hrow 3
  refine ⟨⟨t, ?_, hone.curRow, hone.curPlane, ?_⟩, u, hu, hfour.curRow, ?_, hfour.slot⟩
  · simpa using ht
  · simpa using hone.slot
  · simpa using hfour.curPlane

end Sys2Proof.Safety
end

section
/-! The events of one invocation as words, and their number (42_refresh_engine.md R144 to R151, R155). -/

namespace Sys2Proof.Safety

open Sys2Proof.Machine

theorem columnsPerPlane_iff {s : State} :
    columnsPerPlane s = true ↔ s.colPins.length = s.colCount * s.planeCount ∧ 1 < s.planeCount := by
  simp [columnsPerPlane]

theorem map_planeEvents (s : State) (c : Nat) : (planeEvents s c).map eventWord = planeWords s c := by
  unfold planeEvents planeWords
  cases (s.srPins.get? c).filter SrTriple.wired with
  | some t => exact (srLoadEvents _ _ _).1
  | none => simp [List.map_map, Function.comp_def, eventWord_drive, colIdx, columnsPerPlane_iff]

/-- The words the spec lists are those of the engine's events. -/
theorem map_invocationEvents (s : State) : (invocationEvents s).map eventWord = invocationWords s := by
  simp only [invocationEvents, invocationWords, List.map_append, List.map_cons, List.map_nil, List.map_flatMap,
    map_planeEvents, eventWord_driveHigh, eventWord_driveLow, oldRow, curRow_toNat_eq_zero]

theorem length_planeEvents {s : State} {c : Nat} (hc : c < 4) :
    (planeEvents s c).length = if srWired s c then 2 + 3 * s.colCount else s.colCount := by
  obtain ⟨t, ht⟩ := Quad.exists_get? s.srPins hc
  cases hw : t.wired
  · simp [planeEvents_direct ht hw, srWired, ht, hw]
  · simp [planeEvents_wired ht hw, (srLoadEvents _ _ _).2, srWired, ht, hw]

/-- Settles O47: the events are those of the spec's list, and each plane's are counted by its wiring. -/
theorem engineEmitsItsEvents : Obligations.EngineEmitsItsEvents := by
  intro s t h hl ht
  obtain ⟨-, -, -, -, -, hmax⟩ := h.geometryLegal (.inr hl)
  have hplanes : ((List.range s.planeCount).map fun c => (planeEvents s c).length) =
      (List.range s.planeCount).map fun c => if srWired s c then 2 + 3 * s.colCount else s.colCount :=
    List.map_congr_left fun c hc => length_planeEvents ((List.mem_range.mp hc).trans_le hmax)
  rw [h.engineStep_trace hl ht]
  refine ⟨by rw [map_invocationEvents], ?_⟩
  simp only [invocationEvents, List.length_append, List.length_map, List.length_singleton, List.length_flatMap, hplanes]
  ring

end Sys2Proof.Safety
end

section
/-! The row lines in TRACE (10_state.md R53, 40_gpio_shiftreg.md R116; 42_refresh_engine.md R146, R151, R158): BEGIN
turns every row off, an invocation turns the old row off before it turns the new one on. -/

namespace Sys2Proof.Safety

open Sys2Proof.Machine

/-! ### The last drive of a line -/

theorem lastDrive_concat_eq_some_iff {l : LineId} {tr : List EventWord} {op : GpioOp} {b : Bool} :
    lastDrive l (tr ++ [eventWord op]) = some b ↔
      op = drive l b ∨ (lastDrive l tr = some b ∧ op ≠ drive l !b) := by
  rw [lastDrive_concat]
  by_cases hlow : op = .driveLow l
  · cases b <;> simp [drive, hlow]
  · by_cases hhigh : op = .driveHigh l
    · cases b <;> simp [drive, hhigh]
    · cases b <;> simp [drive, hlow, hhigh]

/-- A level stays the last one driven until the other level is driven. -/
theorem lastDrive_append_eq_some {l : LineId} {tr : List EventWord} {ops : List GpioOp} {b : Bool}
    (h : lastDrive l tr = some b ∨ drive l b ∈ ops) (hne : (drive l !b) ∉ ops) :
    lastDrive l (tr ++ ops.map eventWord) = some b := by
  induction ops using List.reverseRecOn with
  | nil => simpa using h
  | append_singleton ops op ih =>
    rw [List.mem_append, List.mem_singleton] at h hne
    obtain ⟨hops, hop⟩ := not_or.mp hne
    rw [List.map_append, ← List.append_assoc]
    refine lastDrive_concat_eq_some_iff.mpr ?_
    rcases h with h | h | h
    · exact .inr ⟨ih (.inl h) hops, Ne.symm hop⟩
    · exact .inr ⟨ih (.inr h) hops, Ne.symm hop⟩
    · exact .inl h.symm

/-- A level is driven last only if it is driven. -/
theorem drive_mem_of_lastDrive {l : LineId} {ops : List GpioOp} {b : Bool}
    (h : lastDrive l (ops.map eventWord) = some b) : drive l b ∈ ops := by
  induction ops using List.reverseRecOn with
  | nil => cases h
  | append_singleton ops op ih =>
    rw [List.map_append] at h
    rw [List.mem_append, List.mem_singleton]
    rcases lastDrive_concat_eq_some_iff.mp h with rfl | ⟨h, -⟩
    · exact .inr rfl
    · exact .inl (ih h)

/-! ### BEGIN -/

theorem planeInitOps_line {s : State} {c : Nat} (hc : c < s.planeCount) {op : GpioOp} (hop : op ∈ planeInitOps s c) :
    op.line ∈ srLines s := by
  unfold planeInitOps at hop
  split at hop
  · rename_i t ht
    split at hop
    · rename_i hw
      refine mem_srLines.mpr ⟨t, mem_wiredTriples.mpr ⟨c, hc, ht, hw⟩, ?_⟩
      simp only [List.mem_append, configure, List.mem_cons, List.not_mem_nil, or_false] at hop
      rcases hop with (((rfl | rfl) | rfl | rfl) | rfl | rfl) | hop
      · exact .inl rfl
      · exact .inl (line_drive _ _)
      · exact .inr (.inl rfl)
      · exact .inr (.inl (line_drive _ _))
      · exact .inr (.inr rfl)
      · exact .inr (.inr (line_drive _ _))
      · exact srLoadOps_line hop
    · cases hop
  · cases hop

section

variable {s : State} (hap : RowLinesApart s)
include hap

/-- BEGIN drives no row line low. -/
theorem RowLinesApart.driveLow_not_mem_beginOps {l : LineId} (hrow : l ∈ s.rowPins) : .driveLow l ∉ beginOps s := by
  obtain ⟨hcol, hsr⟩ := hap.2 l hrow
  intro hop
  simp only [beginOps, configure, List.mem_append, List.mem_flatMap, List.mem_range, List.mem_cons, List.not_mem_nil,
    or_false] at hop
  rcases hop with (⟨m, -, hop | hop⟩ | ⟨m, hm, hop | hop⟩) | ⟨c, hc, hop⟩
  · cases hop
  · cases hop
  · cases hop
  · cases hop
    exact hcol hm
  · exact hsr (planeInitOps_line hc hop)

end

theorem driveHigh_mem_beginOps {s : State} {l : LineId} (hrow : l ∈ s.rowPins) : .driveHigh l ∈ beginOps s := by
  simp only [beginOps, List.mem_append, List.mem_flatMap]
  exact .inl (.inl ⟨l, hrow, by simp [configure, drive]⟩)

/-- During BEGIN no row is on, and after it every row is off. -/
theorem oneRowOn_launched {s u : State} (htrace : s.trace = []) (hu : emitAll (beginOps s) s = .ok u) :
    OneRowOn (respond .ok 0 (launch { u with ptable := periodTable u.base })) := by
  have hevents : u.trace = (beginOps s).map eventWord := by
    rw [emitAll_frame hu, htrace]
    rfl
  rw [launched_eq hu, hevents]
  intro _ hap
  have hap : RowLinesApart s := hap
  refine ⟨fun n l hl m _ hlow _ => ?_, fun r l hr _ => ?_⟩
  · rw [← List.map_take] at hlow
    exact absurd (List.mem_of_mem_take (drive_mem_of_lastDrive hlow)) (hap.driveLow_not_mem_beginOps hl)
  · have hrow : l ∈ s.rowPins := List.mem_of_getElem? hr
    exact lastDrive_append_eq_some (tr := []) (b := true) (.inr (driveHigh_mem_beginOps hrow))
      (hap.driveLow_not_mem_beginOps hrow)

theorem OneRowOn.commandEffect {i : Instr} {s t : State} (h : OneRowOn s) (hinv : Inv s) (he : CommandEffect i s t) :
    OneRowOn t := by
  cases he with
  | answered | clearing => exact h
  | written k v u hu =>
    obtain ⟨m, -, rfl⟩ := memWrite_eq_ok.mp hu
    exact h
  | halted | allocated => exact nofun
  | configured _ _ _ _ hl => exact fun hrun => absurd (hl.symm.trans hrun) nofun
  | launched u _ hl _ hu =>
    obtain ⟨-, -, -, -, htrace⟩ := hinv.idle (by simp [hl])
    exact oneRowOn_launched htrace hu

/-! ### The engine -/

section

variable {s : State} (h : Inv s) (hl : s.lc = .running)
include h hl

theorem Inv.getD_rowPins_eq_iff (hap : RowLinesApart s) {r r' : Nat} {l : LineId} (hr : s.rowPins[r]? = some l)
    (hr' : r' < s.rowCount) : s.rowPins.getD r' noneLine = l ↔ r = r' := by
  obtain ⟨hrows, -⟩ := beginFailure_eq_none.mp (h.validated hl)
  obtain ⟨hlt, rfl⟩ := List.getElem?_eq_some_iff.mp hr
  rw [List.getD_eq_getElem _ _ (hrows ▸ hr'), hap.1.getElem_inj_iff, eq_comm]

/-- The only row line an invocation drives low is that of its cursor. -/
theorem Inv.eq_newRow_of_driveLow_mem (hap : RowLinesApart s) {l : LineId} (hrow : l ∈ s.rowPins)
    (hop : .driveLow l ∈ invocationEvents s) : s.rowPins.getD s.curRow.toNat noneLine = l := by
  obtain ⟨hcol, hsr⟩ := hap.2 l hrow
  simp only [invocationEvents, List.mem_append, List.mem_singleton, List.mem_flatMap, List.mem_range] at hop
  rcases hop with (hop | ⟨c, hc, hop⟩) | hop
  · cases hop
  · exact absurd (h.planeEvents_line hl hc hop) (by simp [GpioOp.line, hcol, hsr])
  · cases hop
    rfl

/-- From the old row's drive on, every row but the new one is off. -/
theorem Inv.row_off (hon : OneRowOn s) (hap : RowLinesApart s) {ops : List GpioOp}
    (hsub : ops ⊆ invocationEvents s) (hold : .driveHigh (s.rowPins.getD (oldRow s) noneLine) ∈ ops) {r : Nat}
    {l : LineId} (hr : s.rowPins[r]? = some l) (hne : r ≠ s.curRow.toNat) :
    lastDrive l (s.trace ++ ops.map eventWord) = some true := by
  refine lastDrive_append_eq_some ?_ fun hlow => hne ?_
  · by_cases hrold : r = oldRow s
    · rw [(h.getD_rowPins_eq_iff hl hap hr (h.oldRow_lt hl)).mpr hrold] at hold
      exact .inr hold
    · exact .inl ((hon hl hap).2 r l hr hrold)
  · have hnew := h.eq_newRow_of_driveLow_mem hl hap (List.mem_of_getElem? hr) (hsub hlow)
    exact (h.getD_rowPins_eq_iff hl hap hr (h.cursor hl)).mp hnew

/-- From the old row's drive on, a row that is on is the new one. -/
theorem Inv.eq_newRow_of_on (hon : OneRowOn s) (hap : RowLinesApart s) {ops : List GpioOp}
    (hsub : ops ⊆ invocationEvents s) (hold : .driveHigh (s.rowPins.getD (oldRow s) noneLine) ∈ ops) {l : LineId}
    (hrow : l ∈ s.rowPins) (hlow : lastDrive l (s.trace ++ ops.map eventWord) = some false) :
    s.rowPins.getD s.curRow.toNat noneLine = l := by
  obtain ⟨r, hr⟩ := List.mem_iff_getElem?.mp hrow
  by_contra hne
  rw [h.getD_rowPins_eq_iff hl hap hr (h.cursor hl)] at hne
  exact absurd (hlow.symm.trans (h.row_off hl hon hap hsub hold hr hne)) nofun

/-- At most one row is on at every point of an invocation. -/
theorem Inv.atMostOneOn_take (hon : OneRowOn s) (hap : RowLinesApart s) (n : Nat) :
    AtMostOneOn s.rowPins ((s.trace ++ (invocationEvents s).map eventWord).take n) := by
  obtain ⟨hprefix, -⟩ := hon hl hap
  rw [List.take_append, ← List.map_take]
  cases hn : n - s.trace.length with
  | zero => simpa using hprefix n
  | succ k =>
    have hsub : (invocationEvents s).take (k + 1) ⊆ invocationEvents s := List.take_subset _ _
    have hnew {l : LineId} := h.eq_newRow_of_on hl hon hap hsub List.mem_cons_self (l := l)
    rw [List.take_of_length_le (by omega)]
    exact fun l hl m hm hlow hlow' => (hnew hl hlow).symm.trans (hnew hm hlow')

/-- The row an invocation has lit is the old row of the next one. -/
theorem Inv.oldRow_engineStep {t : State} (ht : Machine.engineStep s = .next t) : oldRow t = s.curRow.toNat := by
  obtain ⟨u, hu, -, -, hrows, -, hrow, -⟩ := h.exists_invocation hl
  obtain rfl : u = t := Host.Outcome.next.inj (hu.symm.trans ht)
  rw [oldRow, hrow, hrows]
  split
  · rename_i hlast
    simp [← hlast]
  · rename_i hmore
    rw [h.curRow_succ_toNat hl hmore]
    simp

theorem Inv.engineStep_oneRowOn {t : State} (hon : OneRowOn s) (ht : Machine.engineStep s = .next t) : OneRowOn t := by
  intro _ hap'
  have hold := h.oldRow_engineStep hl ht
  have htrace := h.engineStep_trace hl ht
  have hpins : t.rowPins = s.rowPins := by rw [engineStep_frame ht]
  have hap : RowLinesApart s := by
    rw [engineStep_frame ht] at hap'
    exact hap'
  rw [hpins, htrace, hold]
  exact ⟨h.atMostOneOn_take hl hon hap, fun r l hr hne =>
    h.row_off hl hon hap (List.Subset.refl _) List.mem_cons_self hr hne⟩

end

/-- Settles O50: every other row is off, and the last event turns the cursor's row on. -/
theorem engineLightsExactlyItsRow : Obligations.EngineLightsExactlyItsRow := by
  intro s t h hon hl hap ht r l hr
  rw [h.engineStep_trace hl ht]
  constructor
  · intro hlow
    have hnew := h.eq_newRow_of_on hl hon hap (List.Subset.refl _) List.mem_cons_self (List.mem_of_getElem? hr) hlow
    exact (h.getD_rowPins_eq_iff hl hap hr (h.cursor hl)).mp hnew
  · intro hr'
    rw [invocationEvents, List.map_append, ← List.append_assoc,
      (h.getD_rowPins_eq_iff hl hap hr (h.cursor hl)).mpr hr']
    exact lastDrive_concat_eq_some_iff.mpr (.inl rfl)

/-- The step of an enabled agent keeps the one-row property. -/
theorem OneRowOn.runAgent {a : Agent} {s t : State} (h : OneRowOn s) (hinv : Inv s) (he : agentEnabled a s = true)
    (ht : Machine.runAgent a s = .next t) : OneRowOn t := by
  cases a with
  | host =>
    obtain ⟨w, q, -, hw⟩ := hostStep_next ht
    have hq : OneRowOn { s with hostQueue := q } := h
    rcases acceptWord_effect hw with ⟨i, -, heffect⟩ | rfl
    · exact hq.commandEffect (hinv.environment q s.draws s.schedule s.round) heffect
    · exact hq
  | clear =>
    rw [clearStep_frame ht]
    exact h
  | tick =>
    cases ht
    rw [tickStep_frame]
    exact h
  | engine =>
    obtain ⟨-, hl, -⟩ := engine_enabled_iff.mp he
    exact hinv.engineStep_oneRowOn hl h ht
  | reset =>
    cases ht
    exact nofun

/-- Settles O49: choosing a turn touches neither the rows nor TRACE, and the chosen agent keeps the property. -/
theorem stepKeepsOneRowOn : Obligations.StepKeepsOneRowOn := by
  intro s t hinv h ht
  have hchosen : OneRowOn (chooseTurn s).2 := by
    obtain ⟨rest, r, n, hframe⟩ := chooseTurn_frame s
    rw [hframe]
    exact h
  exact hchosen.runAgent hinv.chooseTurn ((chooseTurn_keeps_enabled s _).trans (chooseTurn_enabled s)) ht

end Sys2Proof.Safety
end

section
/-! The levels of the column lines after an invocation (42_refresh_engine.md R147 to R150, R159, R161). -/

namespace Sys2Proof.Safety

open Sys2Proof.Machine

/-! ### The level of a driven line -/

/-- A primitive leaves a line at a driven level if it drives the line there, or finds it there and does not drive it to
the other level. -/
theorem emit_lineAt_driven {op : GpioOp} {s t : State} (ht : emit op s = .ok t) {l : LineId} {b : Bool}
    (h : lineAt s l = ⟨.output, .ofBit b⟩ ∨ op = drive l b) (hne : op ≠ drive l !b) :
    lineAt t l = ⟨.output, .ofBit b⟩ := by
  obtain ⟨v, hv, hlines⟩ := emit_lineAt ht
  rw [hlines]
  split
  · subst l
    cases op with
    | cfgOut l =>
      obtain h := h.resolve_right (cfgOut_ne_drive _ _ _)
      obtain ⟨-, hkeep⟩ := hv
      have hlevel : (lineAt s l).level = .ofBit b := congrArg Line.level h
      rw [hkeep (hlevel ▸ ofBit_ne_z b), ← hlevel]
    | driveLow l =>
      obtain ⟨rfl, -⟩ := hv
      cases b
      · rfl
      · exact absurd rfl hne
    | driveHigh l =>
      obtain ⟨rfl, -⟩ := hv
      cases b
      · exact absurd rfl hne
      · rfl
  · refine h.resolve_right ?_
    rintro rfl
    exact absurd (line_drive l b).symm ‹_›

theorem emitAll_lineAt_driven {ops : List GpioOp} {s t : State} (ht : emitAll ops s = .ok t) {l : LineId} {b : Bool}
    (h : lineAt s l = ⟨.output, .ofBit b⟩ ∨ drive l b ∈ ops) (hne : (drive l !b) ∉ ops) :
    lineAt t l = ⟨.output, .ofBit b⟩ := by
  induction ops generalizing s with
  | nil =>
    cases ht
    simpa using h
  | cons op ops ih =>
    obtain ⟨u, hu, ht⟩ := emitAll_cons_ok.mp ht
    obtain ⟨hop, hops⟩ := not_or.mp (List.mem_cons.not.mp hne)
    refine ih ht ?_ hops
    rw [List.mem_cons, ← or_assoc] at h
    exact h.imp_left fun h => emit_lineAt_driven hu (h.imp_right Eq.symm) (Ne.symm hop)

theorem drive_not_ne (l : LineId) (b : Bool) : (drive l !b) ≠ drive l b := by cases b <;> nofun

/-! ### The events from one plane on -/

/-- The events of planes c, c + 1, … and the new row's (R150, R151). -/
def eventsFrom (s : State) (c : Nat) : List GpioOp :=
  (List.range' c (s.planeCount - c)).flatMap (planeEvents s) ++ [.driveLow (s.rowPins.getD s.curRow.toNat noneLine)]

theorem mem_eventsFrom {s : State} {c : Nat} {op : GpioOp} :
    op ∈ eventsFrom s c ↔
      (∃ d, c ≤ d ∧ d < s.planeCount ∧ op ∈ planeEvents s d) ∨
        op = .driveLow (s.rowPins.getD s.curRow.toNat noneLine) := by
  simp only [eventsFrom, List.mem_append, List.mem_flatMap, List.mem_range'_1, List.mem_singleton, and_assoc]
  refine or_congr_left (exists_congr fun d => and_congr_right fun hd => and_congr_left fun _ => ?_)
  omega

/-- An invocation ends with the events from any plane on. -/
theorem invocationEvents_eq_append {s : State} {c : Nat} (hc : c ≤ s.planeCount) :
    ∃ before, invocationEvents s = before ++ eventsFrom s c := by
  have hrange : List.range s.planeCount = List.range' 0 c ++ List.range' c (s.planeCount - c) := by
    rw [List.range_eq_range', ← Nat.add_sub_cancel' hc]
    simpa using (List.range'_append (s := 0) (m := c) (n := s.planeCount - c) (step := 1)).symm
  refine ⟨[.driveHigh (s.rowPins.getD (oldRow s) noneLine)] ++ (List.range' 0 c).flatMap (planeEvents s), ?_⟩
  simp only [invocationEvents, eventsFrom, hrange, List.flatMap_append, List.append_assoc]

theorem planeEvents_of_direct {s : State} {c : Nat} (hd : direct s c = true) :
    planeEvents s c =
      (List.range s.colCount).map fun j => drive (s.colPins.getD (colIdx s c j) noneLine) (shownBit s c j) := by
  unfold direct at hd
  split at hd
  · rename_i t ht
    refine planeEvents_direct ht ?_
    obtain ⟨⟨hdata, -⟩, -⟩ : (t.data = noneLine ∧ t.clock = noneLine) ∧ t.latch = noneLine := by
      simpa [SrTriple.direct] using hd
    simp [SrTriple.wired, hdata]
  · cases hd

section

variable {s : State} (h : Inv s) (hl : s.lc = .running)
include h hl

/-- A line stands where the events from some plane on leave it, if they drive it to one level only. -/
theorem Inv.engineStep_lineAt {t : State} (ht : Machine.engineStep s = .next t) {c : Nat} (hc : c ≤ s.planeCount)
    {l : LineId} {b : Bool} (hdrive : drive l b ∈ eventsFrom s c) (hne : (drive l !b) ∉ eventsFrom s c) :
    lineAt t l = ⟨.output, .ofBit b⟩ := by
  obtain ⟨ops, u, hops, hu, rfl⟩ := engineStep_eq ht
  obtain rfl : invocationEvents s = ops := Except.ok.inj ((h.invocationOps_eq hl).symm.trans hops)
  obtain ⟨before, hsplit⟩ := invocationEvents_eq_append hc
  obtain ⟨v, -, hv⟩ := emitAll_append_ok.mp (hsplit ▸ hu)
  exact emitAll_lineAt_driven hv (.inr hdrive) hne

/-- An event of step 5 is on a line of a triple, or it is the drive of a column of a direct-wired plane. -/
theorem Inv.planeEvents_srLine_or_column {c : Nat} (hc : c < s.planeCount) {op : GpioOp} (hop : op ∈ planeEvents s c) :
    op.line ∈ srLines s ∨
      (direct s c = true ∧ ∃ j < s.colCount, op = drive (s.colPins.getD (colIdx s c j) noneLine) (shownBit s c j)) := by
  obtain ⟨t, ht, hw | ⟨hw, hd⟩⟩ := h.wired_or_direct hl hc
  · rw [planeEvents_wired ht hw] at hop
    exact .inl (mem_srLines.mpr ⟨t, mem_wiredTriples.mpr ⟨c, hc, ht, hw⟩, srLoadOps_line hop⟩)
  · rw [planeEvents_direct ht hw] at hop
    obtain ⟨j, hj, rfl⟩ := List.mem_map.mp hop
    exact .inr ⟨hd, j, List.mem_range.mp hj, rfl⟩

section

variable (hnodup : s.colPins.Nodup) (hapart : ∀ l ∈ s.colPins, l ∉ s.rowPins ∧ l ∉ srLines s) {c j : Nat}
  (hc : c < s.planeCount) (hd : direct s c = true) (hj : j < s.colCount)
  (hlast : ∀ d i, c ≤ d → d < s.planeCount → direct s d = true → i < s.colCount →
    colIdx s d i = colIdx s c j → d = c ∧ i = j)
include hnodup hapart hc hd hj hlast

/-- From plane c on, only column j of plane c drives its line. -/
theorem Inv.eq_drive_of_mem_eventsFrom {op : GpioOp} (hop : op ∈ eventsFrom s c)
    (hline : op.line = s.colPins.getD (colIdx s c j) noneLine) :
    op = drive (s.colPins.getD (colIdx s c j) noneLine) (shownBit s c j) := by
  have hlt := h.colIdx_lt hl hc hd hj
  obtain ⟨hrows, -⟩ := beginFailure_eq_none.mp (h.validated hl)
  obtain ⟨hrow, hsr⟩ := hapart _ (getD_mem_of_lt hlt noneLine)
  rw [← hline] at hrow hsr
  rcases mem_eventsFrom.mp hop with ⟨d, hcd, hdp, hop⟩ | rfl
  · obtain ⟨hdd, i, hi, rfl⟩ := (h.planeEvents_srLine_or_column hl hdp hop).resolve_left hsr
    have hlt' := h.colIdx_lt hl hdp hdd hi
    rw [line_drive, List.getD_eq_getElem _ _ hlt, List.getD_eq_getElem _ _ hlt', hnodup.getElem_inj_iff] at hline
    obtain ⟨rfl, rfl⟩ := hlast d i hcd hdp hdd hi hline
    rfl
  · exact absurd (getD_mem_of_lt (hrows ▸ h.cursor hl) noneLine) hrow

/-- A column line without another role carries the bit of the last plane and column that drive it. -/
theorem Inv.column_shows {t : State} (ht : Machine.engineStep s = .next t) :
    ∃ l, s.colPins[colIdx s c j]? = some l ∧ lineAt t l = ⟨.output, .ofBit (shownBit s c j)⟩ := by
  have hlt := h.colIdx_lt hl hc hd hj
  refine ⟨s.colPins.getD (colIdx s c j) noneLine, by simp [hlt], h.engineStep_lineAt hl ht hc.le ?_ fun hop => ?_⟩
  · refine mem_eventsFrom.mpr (.inl ⟨c, le_rfl, hc, ?_⟩)
    rw [planeEvents_of_direct hd]
    exact List.mem_map_of_mem (List.mem_range.mpr hj)
  · exact drive_not_ne _ _ (h.eq_drive_of_mem_eventsFrom hl hnodup hapart hc hd hj hlast hop (line_drive _ _))

end

end

/-! ### Own and shared columns (R147, R159, R161) -/

/-- Planes with columns of their own have them one plane after another. -/
theorem colIdx_own {s : State} (hown : s.colPins.length = s.colCount * s.planeCount ∨ s.planeCount = 1) {c : Nat}
    (hc : c < s.planeCount) (j : Nat) : colIdx s c j = c * s.colCount + j := by
  rw [colIdx, if_congr columnsPerPlane_iff rfl rfl]
  split
  · rfl
  · rename_i hn
    obtain rfl : c = 0 := by
      by_contra h0
      exact hn ⟨hown.resolve_right (by omega), by omega⟩
    omega

/-- Planes that share the columns all have column j at index j. -/
theorem colIdx_shared {s : State} (hcols : 1 ≤ s.colCount) (hplanes : 1 < s.planeCount)
    (hlen : s.colPins.length = s.colCount) (c j : Nat) : colIdx s c j = j := by
  refine if_neg fun hper => ?_
  obtain ⟨hper, -⟩ := columnsPerPlane_iff.mp hper
  have hlt : s.colCount * 1 < s.colCount * s.planeCount := Nat.mul_lt_mul_of_pos_left hplanes hcols
  omega

/-- Settles O51: own, distinct lines are driven by their own plane and column only. -/
theorem columnLinesShowTheirCells : Obligations.ColumnLinesShowTheirCells := by
  intro s c h hl hc hd hown hnodup hapart
  obtain ⟨t, ht⟩ := h.exists_engineStep hl
  refine ⟨t, ht, fun j hj => ?_⟩
  rw [← colIdx_own hown hc]
  refine h.column_shows hl hnodup hapart hc hd hj (fun d i hcd hdp _ hi heq => ?_) ht
  rw [colIdx_own hown hdp, colIdx_own hown hc] at heq
  rcases hcd.eq_or_lt with rfl | hlt
  · exact ⟨rfl, by omega⟩
  · have hbelow : c * s.colCount + j < d * s.colCount := rowMajor_lt (p := (c, j)) hlt hj
    omega

/-- Settles O52: no direct-wired plane follows the highest one, so its drives are the last. -/
theorem sharedColumnsShowHighestPlane : Obligations.SharedColumnsShowHighestPlane := by
  intro s c h hl hplanes hlen hc hd hhighest hnodup hapart
  obtain ⟨t, ht⟩ := h.exists_engineStep hl
  obtain ⟨-, -, hcols, -⟩ := h.geometryLegal (.inr hl)
  have hidx := colIdx_shared hcols hplanes hlen
  refine ⟨t, ht, fun j hj => ?_⟩
  have hshows := h.column_shows hl hnodup hapart hc hd hj (fun d i hcd hdp hdd _ heq => ?_) ht
  · rwa [hidx] at hshows
  · rw [hidx, hidx] at heq
    have hhigh : ¬c < d := fun hlt => absurd (hdd.symm.trans (hhighest d hlt hdp)) nofun
    exact ⟨by omega, heq⟩

end Sys2Proof.Safety
end

section
/-! Construction and bring-up (43_controller_config.md R168 to R190): CONSTRUCT, the commands that fill the tables, and
BEGIN's checks, launch and events. -/

namespace Sys2Proof.Machine

open Sys2Proof.Safety

/-! ### CONSTRUCT (R168, R169) -/

theorem lookupKey_map_prodMk {α : Type} (f : Nat → α) (k : Nat) (l : List Nat) :
    lookupKey k (l.map fun i => (i, f i)) = if k ∈ l then some (f k) else none := by
  induction l with
  | nil => rfl
  | cons i l ih =>
    simp only [List.map_cons, lookupKey, ih, List.mem_cons]
    by_cases h : k = i <;> simp [h]

/-- A fresh frame buffer has its first `n` cells, each with its own draw (10_state.md R47). -/
theorem Memory.read_drawn (n first i : Nat) :
    (Memory.drawn n first).read i = if i < n then some (Config.fbInitDraw (first + i)) else none := by
  simp only [Memory.read, Memory.drawn, lookupKey_map_prodMk fun i => Config.fbInitDraw (first + i), List.mem_range]

section

variable {r : BitVec 6} {c : BitVec 7} {p : BitVec 3} {s : State} (hl : s.lc = .unconstructed)
include hl

theorem exec_construct_badGeometry (hg : ¬geometryOk r.toNat c.toNat p.toNat = true) :
    exec (.construct r c p) s = .next (halt .badGeometry s) := by
  rw [exec, execConstruct, guarded_legal (legal_construct.mpr hl), if_neg hg]

theorem exec_construct_allocFail (hg : geometryOk r.toNat c.toNat p.toNat = true)
    (hw : s.params.fbWords < r.toNat * c.toNat) : exec (.construct r c p) s = .next (halt .allocFail s) := by
  rw [exec, execConstruct, guarded_legal (legal_construct.mpr hl), if_pos hg, if_pos hw]

theorem exec_construct_fits (hg : geometryOk r.toNat c.toNat p.toNat = true)
    (hw : r.toNat * c.toNat ≤ s.params.fbWords) :
    exec (.construct r c p) s = .next (respond .ok 0 (allocate r c p s)) := by
  rw [exec, execConstruct, guarded_legal (legal_construct.mpr hl), if_pos hg, if_neg hw.not_gt]

end

/-- Settles O18: the two halts in the order of the checks, else the allocation; one cell fits every frame buffer. -/
theorem constructAllocatesOrHalts : Obligations.ConstructAllocatesOrHalts := by
  intro r c p s hl
  rw [← geometryOk_iff]
  refine ⟨exec_construct_badGeometry hl, fun hg => ⟨exec_construct_allocFail hl hg, fun hfits => ?_⟩⟩
  have hw : r.toNat * c.toNat ≤ s.params.fbWords := by
    rcases hfits with hw | ⟨rfl, rfl⟩
    · exact hw
    · exact fbWords_pos s.params
  exact ⟨_, exec_construct_fits hl hg hw, rfl, Memory.read_drawn _ _⟩

/-! ### ROWPIN, COLPIN, SRPINS, PERIOD (R172 to R178) -/

/-- Settles O19: each table takes the pin unless it is full. -/
theorem pinCommandsAppend : Obligations.PinCommandsAppend := by
  intro pin s hl
  simp only [exec, execRowpin, execColpin, guarded_legal (legal_bringUp.mpr hl)]
  exact ⟨fun hroom => if_neg hroom, fun hfull => if_pos hfull, fun hroom => if_neg hroom, fun hfull => if_pos hfull⟩

/-- Settles O20: below PLANES the triple is replaced in its quad, else the command only answers. -/
theorem srpinsSetsOneTriple : Obligations.SrpinsSetsOneTriple := by
  intro plane d k l s hl
  rw [exec, execSrpins, guarded_legal (legal_bringUp.mpr hl)]
  exact ⟨fun hp => ⟨_, if_neg hp.not_ge, rfl, Quad.get?_put s.srPins plane ⟨d, k, l⟩⟩, fun hp => if_pos hp⟩

/-- Settles O21: where it is legal, PERIOD is its one update. -/
theorem periodSetsBase : Obligations.PeriodSetsBase := fun _ _ hl => guarded_legal (legal_bringUp.mpr hl) _

/-! ### BEGIN's checks (R181 to R185) -/

theorem colLenOk_iff {s : State} :
    colLenOk s = true ↔ s.colPins.length = s.colCount ∨ s.colPins.length = s.colCount * s.planeCount ∨
      (s.colPins.length = 0 ∧ ∀ c, c < s.planeCount → direct s c = false) := by
  simp [colLenOk, anyDirect, or_assoc, and_comm]

theorem triplesOk_iff {s : State} :
    triplesOk s = true ↔ ∀ c, c < s.planeCount → direct s c = true ∨ srWired s c = true := by
  simp [triplesOk]

section

variable {s : State}

theorem beginFailure_of_rows (hrows : s.rowPins.length ≠ s.rowCount) : beginFailure s = some .rowTableMismatch :=
  if_pos hrows

variable (hrows : s.rowPins.length = s.rowCount)
include hrows

theorem beginFailure_of_cols (hcols : colLenOk s = false) : beginFailure s = some .colTableMismatch := by
  simp [beginFailure, hrows, hcols]

variable (hcols : colLenOk s = true)
include hcols

theorem beginFailure_of_pins (hpins : ¬(noneLine ∉ s.rowPins ∧ noneLine ∉ s.colPins)) :
    beginFailure s = some .pinNone := by
  have hnone : noneLine ∈ s.rowPins ∨ noneLine ∈ s.colPins := by tauto
  simp [beginFailure, hrows, hcols, hnone]

variable (hpins : noneLine ∉ s.rowPins ∧ noneLine ∉ s.colPins)
include hpins

theorem beginFailure_of_triples (htriples : triplesOk s = false) : beginFailure s = some .srTripleInvalid := by
  simp [beginFailure, hrows, hcols, hpins, htriples]

theorem beginFailure_of_base (htriples : triplesOk s = true) (hbase : s.base = 0) :
    beginFailure s = some .periodInvalid := by
  simp [beginFailure, hrows, hcols, hpins, htriples, hbase]

end

/-! ### BEGIN's two outcomes -/

section

variable {s : State} (hl : s.lc = .constructed)
include hl

theorem exec_begin_halts {d : HaltCause} (hv : beginFailure s = some d) : exec .begin s = .next (halt d s) := by
  rw [exec, execBegin, guarded_legal (legal_bringUp.mpr hl), hv]

/-- A BEGIN whose checks pass emits its initialisation and launches. -/
theorem exec_begin_launches (hv : beginFailure s = none) :
    ∃ u, emitAll (beginOps s) s = .ok u ∧
      exec .begin s = .next (respond .ok 0 (launch { u with ptable := periodTable u.base })) := by
  obtain ⟨u, hu⟩ := emits_beginOps hv s
  exact ⟨u, hu, by rw [exec, execBegin, guarded_legal (legal_bringUp.mpr hl), hv, hu]⟩

end

/-- Settles O22: the first check that fails is BEGIN's failure; when none fails, BEGIN launches. -/
theorem beginHaltsOnFirstFailedCheck : Obligations.BeginHaltsOnFirstFailedCheck := by
  intro s hl
  simp only [← colLenOk_iff, ← triplesOk_iff, Bool.not_eq_true]
  refine ⟨fun hrows => ?_, fun hrows hcols => ?_, fun hrows hcols hpins => ?_,
    fun hrows hcols hpins htriples => ?_, fun hrows hcols hpins htriples hbase => ?_,
    fun hrows hcols hpins htriples hbase => ?_⟩
  · exact exec_begin_halts hl (beginFailure_of_rows hrows)
  · exact exec_begin_halts hl (beginFailure_of_cols hrows hcols)
  · exact exec_begin_halts hl (beginFailure_of_pins hrows hcols hpins)
  · exact exec_begin_halts hl (beginFailure_of_triples hrows hcols hpins htriples)
  · exact exec_begin_halts hl (beginFailure_of_base hrows hcols hpins htriples hbase)
  · obtain ⟨hrow, hcol⟩ := hpins
    obtain ⟨u, -, hu⟩ := exec_begin_launches hl
      (beginFailure_eq_none.mpr ⟨hrows, hcols, hrow, hcol, htriples, hbase⟩)
    exact ⟨_, hu, rfl⟩

/-! ### BEGIN's launch (R187, R188) -/

/-- The first period is BASE itself (R187). -/
theorem periodTable_at_zero (base : BitVec 24) : ((periodTable base).at 0).setWidth 32 = base.setWidth 32 := by
  apply BitVec.eq_of_toNat_eq
  have hbase := base.isLt
  simp [periodTable_at_toNat base (b := 0) (by decide)]

/-- Settles O23: the launch as one update, and the period table entry by entry. -/
theorem beginLaunches : Obligations.BeginLaunches := by
  intro s hl hv
  obtain ⟨u, hu, ht⟩ := exec_begin_launches hl hv
  rw [launched_eq hu, periodTable_at_zero] at ht
  refine ⟨_, ht, rfl, fun i => ?_⟩
  simpa using periodTable_at_toNat s.base i.isLt

/-! ### BEGIN's events (R186, R190; 40_gpio_shiftreg.md R119) -/

/-- What BEGIN emits for one SR-wired triple. -/
def tripleInitOps (s : State) (t : SrTriple) : List GpioOp :=
  configure t.data false ++ configure t.clock false ++ configure t.latch true ++ srInitOps s.params.srOrder t s.colCount

/-- Only the SR-wired planes are initialised, in order. -/
theorem flatMap_planeInitOps (s : State) :
    (List.range s.planeCount).flatMap (planeInitOps s) = (wiredTriples s).flatMap (tripleInitOps s) := by
  rw [wiredTriples, List.filterMap_eq_flatMap_toList, List.flatMap_assoc]
  refine List.flatMap_congr fun c _ => ?_
  cases ht : s.srPins.get? c with
  | none => simp [planeInitOps, ht]
  | some t => cases hw : t.wired <;> simp [planeInitOps, ht, hw, tripleInitOps, Option.filter]

theorem map_configure (l : LineId) (b : Bool) : (configure l b).map eventWord = [cfgWord l, driveWord l b] := by
  simp [configure, eventWord_cfgOut, eventWord_drive]

theorem map_tripleInitOps (s : State) (t : SrTriple) :
    (tripleInitOps s t).map eventWord =
      [cfgWord t.data, loWord t.data, cfgWord t.clock, loWord t.clock, cfgWord t.latch, hiWord t.latch] ++
        srLoadWords s.params.srOrder t (List.replicate s.colCount false) := by
  obtain ⟨hload, -⟩ := srLoadEvents s.params.srOrder t (List.replicate s.colCount false)
  simp [tripleInitOps, map_configure, srInitOps, hload, driveWord]

/-- The words the spec lists are those of BEGIN's primitives. -/
theorem map_beginOps (s : State) : (beginOps s).map eventWord = beginWords s := by
  simp [beginOps, beginWords, flatMap_planeInitOps, List.map_flatMap, map_configure, map_tripleInitOps, driveWord]

theorem length_tripleInitOps (s : State) (t : SrTriple) : (tripleInitOps s t).length = 6 + 2 + 3 * s.colCount := by
  obtain ⟨-, hload⟩ := srLoadEvents s.params.srOrder t (List.replicate s.colCount false)
  simp [tripleInitOps, configure, srInitOps, hload]
  omega

theorem length_beginOps (s : State) :
    (beginOps s).length =
      2 * s.rowPins.length + 2 * s.colPins.length + (wiredTriples s).length * (6 + 2 + 3 * s.colCount) := by
  simp [beginOps, flatMap_planeInitOps, length_tripleInitOps, configure, mul_comm, add_assoc]

/-- Settles O24: TRACE grows by BEGIN's primitives; there is one row pin for each row. -/
theorem beginEmitsItsInitialisation : Obligations.BeginEmitsItsInitialisation := by
  intro s t hl hv ht
  obtain ⟨hrows, -⟩ := beginFailure_eq_none.mp hv
  obtain ⟨u, hu, hlaunch⟩ := exec_begin_launches hl hv
  cases ht.symm.trans hlaunch
  have htrace : u.trace = s.trace ++ (beginOps s).map eventWord := by rw [emitAll_frame hu]
  refine ⟨?_, ?_⟩
  · simp [htrace, map_beginOps]
  · simp [htrace, length_beginOps, hrows, add_assoc]

end Sys2Proof.Machine
end

section
/-! The six diagnostic reads (44_diagnostics.md R191 to R197): each answers its data, and the fields of the three packed
words. -/

namespace Sys2Proof.Machine

/-! ### The counters (R191, R192, R194) -/

theorem Quad.get?_toNat {α : Type} (q : Quad α) (i : BitVec 2) : q.get? i.toNat = some (q.at i) := by
  have hi : i = 0 ∨ i = 1 ∨ i = 2 ∨ i = 3 := by decide +revert
  rcases hi with rfl | rfl | rfl | rfl <;> rfl

/-- Settles O35: each is a read of its register; PTABLE has an entry at every 2-bit index. -/
theorem counterReads : Obligations.CounterReads := fun s idx =>
  ⟨answerRead_eq s.runtime s, answerRead_eq s.latency s,
    s.ptable.at idx, Quad.get?_toNat s.ptable idx, answerRead_eq (periodEntry s idx) s⟩

/-! ### The packed words (R193, R195, R196) -/

/-- One bit of a word is that bit of any field it lies in. -/
theorem getLsbD_of_field {n start len i : Nat} {x : BitVec n} {f : BitVec len} (h : x.extractLsb' start len = f)
    (hi : i < len) : x.getLsbD (start + i) = f.getLsbD i := by
  simp [← h, hi]

/-- RDCURSOR's word with its upper zeros written out. -/
theorem cursorData_eq_append (s : State) :
    cursorData s = 0#18 ++ (s.slot ++ 0#2 ++ s.curPlane ++ 0#3 ++ s.curRow) := BitVec.setWidth_eq_append (by decide)

/-- RDTABLES' word with its upper zeros written out. -/
theorem tablesData_eq_append (s : State) :
    tablesData s = 0#4 ++
      (srWiredMask s ++ 0#7 ++ BitVec.ofNat 9 s.colPins.length ++ 0#2 ++ BitVec.ofNat 6 s.rowPins.length) :=
  BitVec.setWidth_eq_append (by decide)

theorem srWiredMask_getLsbD (s : State) {c : Nat} (hc : c < 4) : (srWiredMask s).getLsbD c = srWired s c := by
  simp only [srWiredMask, BitVec.getLsbD_append]
  interval_cases c <;> simp

theorem statusData_fields (s : State) :
    (statusData s).extractLsb' 0 2 = s.lc.code ∧ (statusData s).extractLsb' 2 1 = BitVec.ofBool s.irqPending ∧
    (statusData s).extractLsb' 3 5 = 0#5 ∧ (statusData s).extractLsb' 8 8 = s.diag ∧
    (statusData s).extractLsb' 16 6 = s.rows ∧ (statusData s).extractLsb' 22 7 = s.cols ∧
    (statusData s).extractLsb' 29 3 = s.planes := by
  simp (disch := decide) only [statusData, BitVec.extractLsb'_append_eq_of_le,
    BitVec.extractLsb'_append_eq_of_add_le, BitVec.extractLsb'_eq_self, Nat.reduceSub, and_self]

theorem cursorData_fields (s : State) :
    (cursorData s).extractLsb' 0 5 = s.curRow ∧ (cursorData s).extractLsb' 5 3 = 0#3 ∧
    (cursorData s).extractLsb' 8 2 = s.curPlane ∧ (cursorData s).extractLsb' 10 2 = 0#2 ∧
    (cursorData s).extractLsb' 12 2 = s.slot ∧ (cursorData s).extractLsb' 14 18 = 0#18 := by
  simp (disch := decide) only [cursorData_eq_append, BitVec.extractLsb'_append_eq_of_le,
    BitVec.extractLsb'_append_eq_of_add_le, BitVec.extractLsb'_eq_self, BitVec.extractLsb'_zero,
    Nat.reduceSub, and_self]

theorem tablesData_fields (s : State) :
    (tablesData s).extractLsb' 0 6 = BitVec.ofNat 6 s.rowPins.length ∧ (tablesData s).extractLsb' 6 2 = 0#2 ∧
    (tablesData s).extractLsb' 8 9 = BitVec.ofNat 9 s.colPins.length ∧ (tablesData s).extractLsb' 17 7 = 0#7 ∧
    (tablesData s).extractLsb' 24 4 = srWiredMask s ∧ (tablesData s).extractLsb' 28 4 = 0#4 := by
  simp (disch := decide) only [tablesData_eq_append, BitVec.extractLsb'_append_eq_of_le,
    BitVec.extractLsb'_append_eq_of_add_le, BitVec.extractLsb'_eq_self, BitVec.extractLsb'_zero,
    Nat.reduceSub, and_self]

/-- Settles O36: bit 2 is a field of length 1; the other fields are named as they stand. -/
theorem statusWordLayout : Obligations.StatusWordLayout := by
  intro s
  obtain ⟨hlc, hirq, hfields⟩ := statusData_fields s
  have hbit : (statusData s).getLsbD 2 = s.irqPending := by simpa using getLsbD_of_field (i := 0) hirq (by decide)
  exact ⟨statusData s, answerRead_eq _ s, hlc, hbit, hfields⟩

/-- Settles O37: the response is the packed word. -/
theorem cursorWordLayout : Obligations.CursorWordLayout := fun s =>
  ⟨cursorData s, answerRead_eq _ s, cursorData_fields s⟩

/-- Settles O38: 6 and 9 bits hold the table lengths, and bit c of the mask is SRWIRED(c). -/
theorem tablesWordLayout : Obligations.TablesWordLayout := by
  intro s
  obtain ⟨hrows, hlow, hcols, hmid, hmask, hhigh⟩ := tablesData_fields s
  refine ⟨tablesData s, answerRead_eq _ s, fun hr => ?_, hlow, fun hc => ?_, hmid, fun c hc => ?_, hhigh⟩
  · rw [hrows, BitVec.toNat_ofNat, Nat.mod_eq_of_lt (by omega)]
  · rw [hcols, BitVec.toNat_ofNat, Nat.mod_eq_of_lt (by omega)]
  · rw [getLsbD_of_field hmask hc, srWiredMask_getLsbD s hc]

end Sys2Proof.Machine
end

section
/-! The lifecycle (60_exceptions.md R206, R227): what CONSTRUCT and BEGIN may leave of it, and that only these two
commands and RESET change it. -/

namespace Sys2Proof.Machine

open Sys2Proof.Laws

/-! ### CONSTRUCT and BEGIN -/

/-- A halt with a DIAG code from `low` to `high`, answered with that code (R206, log 14). -/
def HaltsWithin (low high : Nat) (t : State) : Prop :=
  t.lc = .halted ∧ low ≤ t.diag.toNat ∧ t.diag.toNat ≤ high ∧ t.response = some ⟨.errHalted, t.diag.setWidth 32⟩

theorem haltsWithin_halt {low high : Nat} {d : HaltCause} (h : low ≤ d.code.toNat ∧ d.code.toNat ≤ high) (s : State) :
    HaltsWithin low high (halt d s) := ⟨rfl, h.1, h.2, rfl⟩

/-- The codes of BEGIN's failures (R207). -/
theorem code_of_beginFailure {s : State} {d : HaltCause} (h : beginFailure s = some d) :
    3 ≤ d.code.toNat ∧ d.code.toNat ≤ 7 := by
  unfold beginFailure at h
  split_ifs at h <;> cases h <;> decide

/-- CONSTRUCT in UNCONSTRUCTED leads to CONSTRUCTED or halts (43_controller_config.md R168). -/
theorem exec_construct_lc {r : BitVec 6} {c : BitVec 7} {p : BitVec 3} {s t : State} (hl : s.lc = .unconstructed)
    (h : exec (.construct r c p) s = .next t) :
    (t.lc = .constructed ∧ t.response = some ⟨.ok, 0⟩) ∨ HaltsWithin 1 2 t := by
  by_cases hg : geometryOk r.toNat c.toNat p.toNat = true
  · rcases le_or_gt (r.toNat * c.toNat) s.params.fbWords with hw | hw
    · cases h.symm.trans (exec_construct_fits hl hg hw)
      exact .inl ⟨rfl, rfl⟩
    · cases h.symm.trans (exec_construct_allocFail hl hg hw)
      exact .inr (haltsWithin_halt (by decide) s)
  · cases h.symm.trans (exec_construct_badGeometry hl hg)
    exact .inr (haltsWithin_halt (by decide) s)

/-- BEGIN in CONSTRUCTED leads to RUNNING or halts (43_controller_config.md R181, R188). -/
theorem exec_begin_lc {s t : State} (hl : s.lc = .constructed) (h : exec .begin s = .next t) :
    (t.lc = .running ∧ t.response = some ⟨.ok, 0⟩) ∨ HaltsWithin 3 7 t := by
  cases hv : beginFailure s with
  | none =>
    obtain ⟨u, -, hu⟩ := exec_begin_launches hl hv
    cases h.symm.trans hu
    exact .inl ⟨rfl, rfl⟩
  | some d =>
    cases h.symm.trans (exec_begin_halts hl hv)
    exact .inr (haltsWithin_halt (code_of_beginFailure hv) s)

/-! ### Every other step -/

theorem memWrite_lc {s u : State} {k : Nat} {v : CellValue} (h : memWrite k v s = .ok u) : u.lc = s.lc := by
  obtain ⟨m, -, rfl⟩ := memWrite_eq_ok.mp h
  rfl

/-- Command `i` is one that may change LC in state `lc` (R227). -/
def MovesLifecycle (i : Instr) (lc : Lifecycle) : Prop :=
  (lc = .unconstructed ∧ ∃ r c p, i = .construct r c p) ∨ (lc = .constructed ∧ i = .begin)

/-- A command keeps LC, unless it is a CONSTRUCT in UNCONSTRUCTED or a BEGIN in CONSTRUCTED. -/
theorem exec_lc {i : Instr} {s t : State} (hi : i.isCommand = true) (h : exec i s = .next t) :
    t.lc = s.lc ∨ MovesLifecycle i s.lc := by
  cases i with
  | construct r c p =>
    rcases execConstruct_next h with ⟨_, rfl⟩ | ⟨hl, -⟩ | ⟨hl, -⟩
    · exact .inl rfl
    · exact .inr (.inl ⟨hl, r, c, p, rfl⟩)
    · exact .inr (.inl ⟨hl, r, c, p, rfl⟩)
  | begin =>
    rcases execBegin_next h with ⟨_, rfl⟩ | ⟨hl, -⟩ | ⟨hl, -⟩
    · exact .inl rfl
    · exact .inr (.inr ⟨hl, rfl⟩)
    · exact .inr (.inr ⟨hl, rfl⟩)
  | rowpin pin => rcases execRowpin_next h with ⟨_, rfl⟩ | ⟨-, -, rfl⟩ <;> exact .inl rfl
  | colpin pin => rcases execColpin_next h with ⟨_, rfl⟩ | ⟨-, -, rfl⟩ <;> exact .inl rfl
  | srpins c d k l => rcases execSrpins_next h with ⟨_, rfl⟩ | ⟨-, -, rfl⟩ <;> exact .inl rfl
  | period us => rcases execPeriod_next h with ⟨_, rfl⟩ | ⟨-, rfl⟩ <;> exact .inl rfl
  | clear => rcases execClear_next h with ⟨_, rfl⟩ | ⟨-, rfl⟩ <;> exact .inl rfl
  | writedisplay =>
    obtain ⟨_, rfl⟩ := execWritedisplay_next h
    exact .inl rfl
  | fbwr row col v =>
    rcases execFbwr_next h with ⟨_, rfl⟩ | ⟨-, -, u, hu, rfl⟩
    · exact .inl rfl
    · exact .inl (memWrite_lc hu :)
  | fbrd row col =>
    obtain ⟨_, _, rfl, -⟩ := execFbrd_next h
    exact .inl rfl
  | rdruntime | rdlatency | rdstatus | rdperiod _ | rdcursor | rdtables =>
    cases h
    exact .inl rfl
  | gpioCfgOut | gpioDriveLow | gpioDriveHigh => cases hi

/-- The HOST agent on a word: the step of the command it decodes to, or ERR_ILLEGAL (30_encoding.md R84). -/
theorem acceptWord_next {w : CommandWord} {s t : State} (h : acceptWord w s = .next t) :
    (∃ i, decodeCommand w = .ok i ∧ exec i s = .next t) ∨ t = respond .errIllegal 0 s := by
  unfold acceptWord at h
  split at h
  · exact .inl ⟨_, ‹_›, h⟩
  · cases h
    exact .inr rfl

/-- An agent other than RESET keeps LC, unless it is HOST with a command that may change it. -/
theorem runAgent_lc {a : Agent} {s t : State} (ha : a ≠ .reset) (h : runAgent a s = .next t) :
    t.lc = s.lc ∨
      a = .host ∧ ∃ w i, s.hostQueue.head? = some w ∧ decodeCommand w = .ok i ∧ MovesLifecycle i s.lc := by
  cases a with
  | host =>
    obtain ⟨w, q, hq, hw⟩ := hostStep_next h
    rcases acceptWord_next hw with ⟨i, hi, he⟩ | rfl
    · have hhead : s.hostQueue.head? = some w := by rw [hq, List.head?_cons]
      exact (exec_lc (decodeCommand_isCommand hi) he).imp_right fun hm => ⟨rfl, w, i, hhead, hi, hm⟩
    · exact .inl rfl
  | clear =>
    rw [clearStep_frame h]
    exact .inl rfl
  | tick =>
    cases h
    rw [tickStep_frame]
    exact .inl rfl
  | engine =>
    rw [engineStep_frame h]
    exact .inl rfl
  | reset => exact absurd rfl ha

/-! ### The step -/

@[simp] theorem chooseTurn_lc (s : State) : (chooseTurn s).2.lc = s.lc := by
  obtain ⟨_, _, _, hframe⟩ := chooseTurn_frame s
  rw [hframe]

@[simp] theorem chooseTurn_hostQueue (s : State) : (chooseTurn s).2.hostQueue = s.hostQueue := by
  obtain ⟨_, _, _, hframe⟩ := chooseTurn_frame s
  rw [hframe]

/-- It is HOST's turn and the word it takes decodes to `i`. -/
def TakesCommand (s : State) (i : Instr) : Prop :=
  (chooseTurn s).1 = .host ∧ ∃ w, s.hostQueue.head? = some w ∧ decodeCommand w = .ok i

/-- A step that takes a command executes it, at a state with the same LC. -/
theorem TakesCommand.exec_of_step {s t : State} {i : Instr} (hi : TakesCommand s i) (h : step s = .next t) :
    ∃ u, u.lc = s.lc ∧ exec i u = .next t := by
  obtain ⟨hhost, w, hw, hdecode⟩ := hi
  rw [step, hhost] at h
  obtain ⟨w', q, hq, hw'⟩ := hostStep_next h
  rw [chooseTurn_hostQueue] at hq
  obtain rfl : w' = w := by simpa [hq] using hw
  refine ⟨_, ?_, (acceptWord_of_decode hdecode _).symm.trans hw'⟩
  exact chooseTurn_lc s

/-- A step that is no RESET keeps LC, unless it takes a command that may change it. -/
theorem step_lc {s t : State} (ha : (chooseTurn s).1 ≠ .reset) (h : step s = .next t) :
    t.lc = s.lc ∨ ∃ i, TakesCommand s i ∧ MovesLifecycle i s.lc := by
  have hlc := runAgent_lc ha h
  rw [chooseTurn_lc, chooseTurn_hostQueue] at hlc
  exact hlc.imp_right fun ⟨hhost, w, i, hw, hi, hm⟩ => ⟨i, ⟨hhost, w, hw, hi⟩, hm⟩

/-- Settles O39: RESET's value, the two commands' outcomes, and the frames of LC for every other step. -/
theorem lifecycleTransitions : Obligations.LifecycleTransitions := by
  intro s t h
  refine ⟨fun hreset => ?_, fun r c p hi hl => ?_, fun hi hl => ?_, fun hne => ?_⟩
  · rw [step, hreset] at h
    cases h
    rfl
  · obtain ⟨u, hlc, hu⟩ := TakesCommand.exec_of_step hi h
    exact exec_construct_lc (hlc.trans hl) hu
  · obtain ⟨u, hlc, hu⟩ := TakesCommand.exec_of_step hi h
    exact exec_begin_lc (hlc.trans hl) hu
  · by_cases hreset : (chooseTurn s).1 = .reset
    · exact .inl hreset
    · rcases step_lc hreset h with heq | ⟨i, hi, ⟨hl, r, c, p, rfl⟩ | ⟨hl, rfl⟩⟩
      · exact absurd heq hne
      · exact .inr (.inl ⟨hl, r, c, p, hi⟩)
      · exact .inr (.inr ⟨hl, hi⟩)

end Sys2Proof.Machine
end

section
/-! The legality table and refusals (60_exceptions.md R203 to R205): a command the table refuses only answers so, and the
answers a command may give where the table allows it. -/

namespace Sys2Proof.Machine

open Sys2Proof.Safety

/-! ### A command the table refuses (R203) -/

/-- The row of the legality table a command stands in; a GPIO primitive, which has none, is put with the reads. -/
def commandClass : Instr → CommandClass
  | .construct _ _ _ => .construct
  | .rowpin _ | .colpin _ | .srpins _ _ _ _ | .period _ | .begin => .bringUp
  | .clear | .fbwr _ _ _ | .fbrd _ _ => .frameBuffer
  | .writedisplay => .display
  | .rdruntime | .rdlatency | .rdstatus | .rdperiod _ | .rdcursor | .rdtables => .read
  | .gpioCfgOut _ | .gpioDriveLow _ | .gpioDriveHigh _ => .read

/-- The table as the spec prints it is the gate's, row by row. -/
theorem legality_eq_legalIn (i : Instr) (lc : Lifecycle) : legality i lc = legalIn (commandClass i) lc := by
  cases i <;> cases lc <;> rfl

/-- Every command passes the gate of its row first (R204). -/
theorem exec_eq_guarded {i : Instr} (hi : i.isCommand = true) (s : State) :
    ∃ body, exec i s = guarded (commandClass i) s body := by
  cases i with
  | gpioCfgOut | gpioDriveLow | gpioDriveHigh => cases hi
  | _ => exact ⟨_, rfl⟩

/-- A refused command writes the response only. -/
theorem exec_refused {i : Instr} {s : State} (hi : i.isCommand = true) (h : legality i s.lc = false) :
    exec i s = .next (respond (if s.lc = .halted then .errHalted else .errState) 0 s) := by
  obtain ⟨body, hbody⟩ := exec_eq_guarded hi s
  rw [legality_eq_legalIn] at h
  rw [hbody]
  split
  · exact guarded_halted h ‹_› body
  · exact guarded_illegal h ‹_› body

/-! ### A command the table allows -/

/-- How a command is answered in a state `s` where the table allows it. -/
inductive LegalAnswer (s : State) : State → Prop where
  /-- A CLEAR that has started (41_framebuffer.md R131). -/
  | unanswered {t : State} : t.response = none → LegalAnswer s t
  /-- OK. -/
  | ok {t : State} (d : ResponseData) : t.response = some ⟨.ok, d⟩ → LegalAnswer s t
  /-- ERR_FULL or ERR_ARG (43_controller_config.md R172 to R176). -/
  | refused {st : Status} : st = .errFull ∨ st = .errArg → LegalAnswer s (respond st 0 s)
  /-- A fatal halt (R206), which a halted machine does not reach again. -/
  | halted (d : HaltCause) : s.lc ≠ .halted → LegalAnswer s (halt d s)

/-- A command the table allows passes the gate. -/
theorem body_of_guarded {k : CommandClass} {s t : State} {body : Host.Outcome State Fault Refusal}
    (hl : legalIn k s.lc = true) (h : guarded k s body = .next t) : body = .next t :=
  (guarded_legal hl body).symm.trans h

/-- Every command answers in one of these ways where the table allows it. -/
theorem exec_legalAnswer {i : Instr} {s t : State} (hi : i.isCommand = true) (hl : legality i s.lc = true)
    (h : exec i s = .next t) : LegalAnswer s t := by
  rw [legality_eq_legalIn] at hl
  cases i with
  | construct r c p =>
    have hlc : s.lc ≠ .halted := by simp [legal_construct.mp hl]
    replace h := body_of_guarded hl h
    split at h
    · split at h <;> cases h
      · exact .halted _ hlc
      · exact .ok 0 rfl
    · cases h
      exact .halted _ hlc
  | begin =>
    have hlc : s.lc ≠ .halted := by simp [legal_bringUp.mp hl]
    replace h := body_of_guarded hl h
    split at h
    · cases h
      exact .halted _ hlc
    · split at h <;> cases h
      exact .ok 0 rfl
  | rowpin pin | colpin pin =>
    replace h := body_of_guarded hl h
    split at h <;> cases h
    · exact .refused (.inl rfl)
    · exact .ok 0 rfl
  | srpins plane d k l =>
    replace h := body_of_guarded hl h
    split at h <;> cases h
    · exact .refused (.inr rfl)
    · exact .ok 0 rfl
  | period us | writedisplay =>
    cases body_of_guarded hl h
    exact .ok 0 rfl
  | clear =>
    cases body_of_guarded hl h
    exact .unanswered rfl
  | fbwr row col v =>
    replace h := body_of_guarded hl h
    split at h
    · split at h <;> cases h
      exact .ok 0 rfl
    · cases h
      exact .ok 0 rfl
  | fbrd row col =>
    replace h := body_of_guarded hl h
    split at h
    · split at h <;> cases h
      exact .ok _ rfl
    · cases h
      exact .ok 0 rfl
  | rdruntime | rdlatency | rdstatus | rdperiod _ | rdcursor | rdtables =>
    cases h
    exact .ok _ rfl
  | gpioCfgOut | gpioDriveLow | gpioDriveHigh => cases hi

/-- Settles O15: refused commands stop at the gate; an allowed one answers ERR_HALTED only by a halt of its own. -/
theorem lifecycleGateRefuses : Obligations.LifecycleGateRefuses := by
  refine fun i s hi => ⟨fun hl => exec_refused hi hl, fun hl t r h hr => ?_⟩
  cases exec_legalAnswer hi hl h with
  | unanswered hnone => cases hnone.symm.trans hr
  | ok d hok =>
    cases hok.symm.trans hr
    exact ⟨nofun, nofun⟩
  | refused hst =>
    cases hr
    rcases hst with rfl | rfl <;> exact ⟨nofun, nofun⟩
  | halted d hlc =>
    cases hr
    exact ⟨nofun, fun _ => ⟨hlc, rfl⟩⟩

/-! ### Refusals (R205) -/

/-- The answers of R205: a refusal, as against OK and a fatal halt. -/
def IsRefusal (st : Status) (lc : Lifecycle) : Prop :=
  st = .errIllegal ∨ st = .errState ∨ st = .errFull ∨ st = .errArg ∨ (st = .errHalted ∧ lc = .halted)

/-- A command answered with a refusal wrote the response only. -/
theorem exec_eq_respond_of_isRefusal {i : Instr} {s t : State} {r : Response} (hi : i.isCommand = true)
    (h : exec i s = .next t) (hr : t.response = some r) (href : IsRefusal r.status s.lc) :
    t = respond r.status 0 s := by
  cases hl : legality i s.lc with
  | false =>
    cases h.symm.trans (exec_refused hi hl)
    cases hr
    rfl
  | true =>
    cases exec_legalAnswer hi hl h with
    | unanswered hnone => cases hnone.symm.trans hr
    | ok d hok =>
      cases hok.symm.trans hr
      simp [IsRefusal] at href
    | refused =>
      cases hr
      rfl
    | halted d hlc =>
      cases hr
      simp [IsRefusal, hlc] at href

/-- Settles O16: a word that decodes is refused by its command, any other by ERR_ILLEGAL; either way only the response
is written. -/
theorem refusalsWriteNothing : Obligations.RefusalsWriteNothing := by
  intro w s t r h hr href
  rcases acceptWord_next h with ⟨i, hi, he⟩ | rfl
  · exact exec_eq_respond_of_isRefusal (decodeCommand_isCommand hi) he hr href
  · cases hr
    rfl

end Sys2Proof.Machine
end

section
/-! The timer (60_exceptions.md R215 to R218): one TICK, and the TICKs up to the first expiry. -/

namespace Sys2Proof.Machine

open Sys2Proof.Safety

/-! ### One TICK -/

theorem tickStep_off {s : State} (hten : s.ten = false) : tickStep s = { s with now := s.now + 1 } := by
  rcases tickStep_cases s with ⟨-, e⟩ | ⟨hon, -⟩ | ⟨hon, -⟩
  · exact e
  · simp [hten] at hon
  · simp [hten] at hon

section

variable {s : State} (hten : s.ten = true)
include hten

theorem tickStep_expires (hp : s.period ≤ s.count + 1) :
    tickStep s = { s with now := s.now + 1, count := 0, irqPending := true } := by
  rcases tickStep_cases s with ⟨hoff, -⟩ | ⟨-, -, e⟩ | ⟨-, hlt, -⟩
  · simp [hten] at hoff
  · exact e
  · exact absurd hp (BitVec.not_le.mpr hlt)

theorem tickStep_counts (hp : s.count + 1 < s.period) :
    tickStep s = { s with now := s.now + 1, count := s.count + 1 } := by
  rcases tickStep_cases s with ⟨hoff, -⟩ | ⟨-, hle, -⟩ | ⟨-, -, e⟩
  · simp [hten] at hoff
  · exact absurd hle (BitVec.not_le.mpr hp)
  · exact e

end

/-- Settles O42: the three cases of a TICK. -/
theorem tickCounts : Obligations.TickCounts := fun _ =>
  ⟨fun hten => congrArg _ (tickStep_off hten), fun hten hp => congrArg _ (tickStep_expires hten hp),
    fun hten hp => congrArg _ (tickStep_counts hten hp)⟩

/-! ### Many TICKs -/

/-- `n + 1` TICKs end with one. -/
theorem ticks_succ (n : Nat) (s : State) : ticks (n + 1) s = tickStep (ticks n s) := by
  induction n generalizing s with
  | zero => rfl
  | succ n ih => exact ih (tickStep s)

/-- As long as COUNT stays below PERIOD, TICKs only count. -/
theorem ticks_count {s : State} (hten : s.ten = true) {n : Nat} (hn : s.count.toNat + n < s.period.toNat) :
    ticks n s = { s with now := s.now + BitVec.ofNat 32 n, count := s.count + BitVec.ofNat 32 n } := by
  induction n with
  | zero => simp [ticks]
  | succ n ih =>
    have hlt : s.count + BitVec.ofNat 32 n + 1 < s.period := by bv_omega
    have hcounted := ih (by omega)
    rw [ticks_succ, tickStep_counts (by rw [hcounted, hten]) (by rw [hcounted]; exact hlt), hcounted]
    simp only [BitVec.ofNat_add, BitVec.add_assoc, BitVec.ofNat_eq_ofNat]

/-- Settles O43: before its last TICK the period has only been counted; the last one expires. -/
theorem expiryAfterPeriodTicks : Obligations.ExpiryAfterPeriodTicks := by
  intro s hten hcount hpos
  have hcounted {n : Nat} (hn : n < s.period.toNat) :
      ticks n s = { s with now := s.now + BitVec.ofNat 32 n, count := BitVec.ofNat 32 n } := by
    simpa [hcount] using ticks_count hten (n := n) (by simpa [hcount] using hn)
  refine ⟨fun n => hcounted, ?_⟩
  obtain ⟨n, hn⟩ : ∃ n, s.period.toNat = n + 1 := ⟨s.period.toNat - 1, by omega⟩
  have hlast := hcounted (n := n) (by omega)
  have hperiod : s.period = BitVec.ofNat 32 n + 1 := by bv_omega
  have hle : s.period ≤ BitVec.ofNat 32 n + 1 := by bv_omega
  rw [hn, ticks_succ, tickStep_expires (by rw [hlast, hten]) (by rw [hlast]; exact hle), hlast, hperiod,
    BitVec.add_assoc]

end Sys2Proof.Machine
end

section
/-! The levels of the lines after BEGIN (70_reset_and_hazards.md R241; 43_controller_config.md R186): each part of BEGIN's
initialisation leaves a line at the level of its role, however often it pulses it before. -/

namespace Sys2Proof.Safety

open Sys2Proof.Machine

/-! ### Primitives that settle a line at a level -/

/-- A line that is at the level before, or is driven there on the way, is at the level after. -/
def SettlesLine (l : LineId) (b : Bool) (ops : List GpioOp) : Prop :=
  ∀ s t, emitAll ops s = .ok t → lineAt s l = ⟨.output, .ofBit b⟩ ∨ drive l b ∈ ops →
    lineAt t l = ⟨.output, .ofBit b⟩

theorem settlesLine_of_not_mem {l : LineId} {b : Bool} {ops : List GpioOp} (h : (drive l !b) ∉ ops) :
    SettlesLine l b ops :=
  fun _ _ ht hl => emitAll_lineAt_driven ht hl h

/-- Primitives on other lines leave the line where it is. -/
theorem settlesLine_of_line_ne {l : LineId} {ops : List GpioOp} (h : ∀ op ∈ ops, op.line ≠ l) (b : Bool) :
    SettlesLine l b ops :=
  settlesLine_of_not_mem fun hop => h _ hop (line_drive l _)

theorem SettlesLine.append {l : LineId} {b : Bool} {ops ops' : List GpioOp} (h : SettlesLine l b ops)
    (h' : SettlesLine l b ops') : SettlesLine l b (ops ++ ops') := by
  intro s t ht hl
  obtain ⟨u, hu, ht⟩ := emitAll_append_ok.mp ht
  rw [List.mem_append, ← or_assoc] at hl
  exact h' u t ht (hl.imp_left (h s u hu))

/-- Primitives that drive the line themselves settle it whatever comes before them. -/
theorem SettlesLine.append_left {l : LineId} {b : Bool} {ops : List GpioOp} (h : SettlesLine l b ops)
    (hdrive : drive l b ∈ ops) (before : List GpioOp) : SettlesLine l b (before ++ ops) := by
  intro s t ht _
  obtain ⟨u, -, ht⟩ := emitAll_append_ok.mp ht
  exact h u t ht (.inr hdrive)

theorem SettlesLine.flatMap {α : Type} {l : LineId} {b : Bool} {f : α → List GpioOp} {xs : List α}
    (h : ∀ x ∈ xs, SettlesLine l b (f x)) : SettlesLine l b (xs.flatMap f) := by
  induction xs with
  | nil => exact settlesLine_of_not_mem List.not_mem_nil
  | cons x xs ih =>
    rw [List.flatMap_cons]
    exact (h x List.mem_cons_self).append (ih fun y hy => h y (List.mem_cons_of_mem x hy))

/-- Driving the line settles it, whatever comes before. -/
theorem settlesLine_concat (l : LineId) (b : Bool) (before : List GpioOp) :
    SettlesLine l b (before ++ [drive l b]) :=
  (settlesLine_of_not_mem (by simpa using drive_not_ne l b)).append_left List.mem_cons_self before

/-! ### The parts of BEGIN's initialisation -/

@[simp] theorem line_cfgOut (l : LineId) : (GpioOp.cfgOut l).line = l := rfl

theorem drive_mem_configure (l : LineId) (b : Bool) : drive l b ∈ configure l b := by simp [configure]

theorem settlesLine_configure {l m : LineId} {b bit : Bool} (h : l = m → b = bit) :
    SettlesLine l b (configure m bit) := by
  by_cases hm : l = m
  · subst hm
    rw [← h rfl]
    exact settlesLine_concat l b [.cfgOut l]
  · exact settlesLine_of_line_ne (by simp [configure, Ne.symm hm]) b

/-- One bit of an SR_LOAD of zeros settles every line at low: the clock falls after it rises. -/
theorem settlesLine_zeroBit (l data clock : LineId) :
    SettlesLine l false [drive data false, .driveHigh clock, .driveLow clock] := by
  by_cases h : l = clock
  · subst h
    exact settlesLine_concat l false [drive data false, .driveHigh l]
  · exact settlesLine_of_not_mem (by simp [drive, h])

/-- SR_INIT settles every line but the latch at low (40_gpio_shiftreg.md R117, R119). -/
theorem settlesLine_srInitOps_low {l : LineId} {t : SrTriple} (o : SrOrder) (cols : Nat) (hlatch : l ≠ t.latch) :
    SettlesLine l false (srInitOps o t cols) := by
  rw [srInitOps, srLoadOps_eq]
  refine ((settlesLine_of_not_mem (by simp [drive])).append (.flatMap fun bit hbit => ?_)).append
    (settlesLine_of_not_mem (by simp [drive, hlatch]))
  obtain ⟨-, rfl⟩ := List.mem_replicate.mp (show bit ∈ List.replicate cols false by simpa using hbit)
  exact settlesLine_zeroBit l t.data t.clock

/-- The initialisation of an SR-wired plane settles every line but the plane's latch at low. -/
theorem settlesLine_tripleInitOps_low {l : LineId} {t : SrTriple} (s : State) (hlatch : l ≠ t.latch) :
    SettlesLine l false (tripleInitOps s t) :=
  (((settlesLine_configure fun _ => rfl).append (settlesLine_configure fun _ => rfl)).append
    (settlesLine_configure fun h => absurd h hlatch)).append (settlesLine_srInitOps_low _ _ hlatch)

/-- The initialisation of an SR-wired plane settles every line but the plane's data and clock lines at high. -/
theorem settlesLine_tripleInitOps_high {l : LineId} {t : SrTriple} (s : State) (hdata : l ≠ t.data)
    (hclock : l ≠ t.clock) : SettlesLine l true (tripleInitOps s t) := by
  unfold tripleInitOps
  by_cases hlatch : l = t.latch
  · subst hlatch
    exact (settlesLine_concat t.latch true _).append_left List.mem_concat_self _
  · refine (((settlesLine_configure fun h => absurd h hdata).append
      (settlesLine_configure fun h => absurd h hclock)).append (settlesLine_configure fun _ => rfl)).append
      (settlesLine_of_line_ne (fun op hop hl => ?_) true)
    subst hl
    rcases srLoadOps_line hop with h | h | h
    · exact hdata h
    · exact hclock h
    · exact hlatch h

/-- BEGIN initialises the rows, the columns and the SR-wired planes, in this order (R186). -/
theorem beginOps_eq (s : State) :
    beginOps s = (s.rowPins.flatMap fun l => configure l true) ++ (s.colPins.flatMap fun l => configure l false) ++
      (wiredTriples s).flatMap (tripleInitOps s) := by
  rw [beginOps, flatMap_planeInitOps]

/-- A table whose pins are all driven to one level settles every line at it. -/
theorem settlesLine_table (pins : List LineId) (l : LineId) (b : Bool) :
    SettlesLine l b (pins.flatMap fun m => configure m b) :=
  .flatMap fun _ _ => settlesLine_configure fun _ => rfl

theorem drive_mem_table {pins : List LineId} {l : LineId} (h : l ∈ pins) (b : Bool) :
    drive l b ∈ pins.flatMap fun m => configure m b :=
  List.mem_flatMap.mpr ⟨l, h, drive_mem_configure l b⟩

theorem settlesLine_columns_high {s : State} {l : LineId} (hcol : l ∉ s.colPins) :
    SettlesLine l true (s.colPins.flatMap fun m => configure m false) :=
  .flatMap fun _ hm => settlesLine_configure fun h => absurd (h ▸ hm) hcol

theorem settlesLine_planes_low {s : State} {l : LineId} (hlatch : l ∉ (wiredTriples s).map SrTriple.latch) :
    SettlesLine l false ((wiredTriples s).flatMap (tripleInitOps s)) :=
  .flatMap fun _ ht => settlesLine_tripleInitOps_low s fun h => hlatch (h ▸ List.mem_map_of_mem ht)

theorem settlesLine_planes_high {s : State} {l : LineId}
    (hrole : l ∉ (wiredTriples s).map SrTriple.data ++ (wiredTriples s).map SrTriple.clock) :
    SettlesLine l true ((wiredTriples s).flatMap (tripleInitOps s)) :=
  .flatMap fun _ ht => settlesLine_tripleInitOps_high s
    (fun h => hrole (List.mem_append_left _ (h ▸ List.mem_map_of_mem ht)))
    (fun h => hrole (List.mem_append_right _ (h ▸ List.mem_map_of_mem ht)))

/-- The planes' part drives every data and clock line low. -/
theorem driveLow_mem_planes {s : State} {l : LineId}
    (hrole : l ∈ (wiredTriples s).map SrTriple.data ++ (wiredTriples s).map SrTriple.clock) :
    drive l false ∈ (wiredTriples s).flatMap (tripleInitOps s) := by
  rw [List.mem_append, List.mem_map, List.mem_map] at hrole
  rw [List.mem_flatMap]
  rcases hrole with ⟨t, ht, rfl⟩ | ⟨t, ht, rfl⟩ <;> exact ⟨t, ht, by simp [tripleInitOps, drive_mem_configure]⟩

/-- The planes' part drives every latch high. -/
theorem driveHigh_mem_planes {s : State} {l : LineId} (hlatch : l ∈ (wiredTriples s).map SrTriple.latch) :
    drive l true ∈ (wiredTriples s).flatMap (tripleInitOps s) := by
  obtain ⟨t, ht, rfl⟩ := List.mem_map.mp hlatch
  exact List.mem_flatMap.mpr ⟨t, ht, by simp [tripleInitOps, drive_mem_configure]⟩

theorem mem_srLines_of_mem_data_or_clock {s : State} {l : LineId}
    (hrole : l ∈ (wiredTriples s).map SrTriple.data ++ (wiredTriples s).map SrTriple.clock) : l ∈ srLines s := by
  rw [List.mem_append, List.mem_map, List.mem_map] at hrole
  rcases hrole with ⟨t, ht, rfl⟩ | ⟨t, ht, rfl⟩
  · exact mem_srLines.mpr ⟨t, ht, .inl rfl⟩
  · exact mem_srLines.mpr ⟨t, ht, .inr (.inl rfl)⟩

/-! ### The launch levels (R241) -/

/-- Settles O25: BEGIN configures every line in use, and the parts of its initialisation from the one that drives a
line in its role on settle the line at that role's level. -/
theorem beginLaunchLevels : Obligations.BeginLaunchLevels := by
  intro s t hl hv ht datas clocks latches
  obtain ⟨u, hu, hlaunch⟩ := exec_begin_launches hl hv
  cases ht.symm.trans hlaunch
  have hmode {l : LineId} (hused : l ∈ usedLines s) : (lineAt u l).mode = .output :=
    emitAll_keeps_mode hu (.inl ⟨_, cfgOut_mem_beginOps hused, rfl⟩)
  have hlevel {l : LineId} {b : Bool} {before ops : List GpioOp} (hsplit : beginOps s = before ++ ops)
      (h : SettlesLine l b ops) (hdrive : drive l b ∈ ops) : (lineAt u l).level = .ofBit b := by
    obtain ⟨v, -, hops⟩ := emitAll_append_ok.mp (hsplit ▸ hu)
    exact congrArg Line.level (h v u hops (.inr hdrive))
  refine ⟨fun _ => hmode, fun l hrow hcol hsr => ?_, fun l hcol hlatch => ?_, fun l hrole hlatch => ?_,
    fun l hmem hrole => ?_⟩
  · have hrole : l ∉ datas ++ clocks := fun h => hsr (mem_srLines_of_mem_data_or_clock h)
    exact hlevel (before := []) (beginOps_eq s)
      (((settlesLine_table _ l true).append (settlesLine_columns_high hcol)).append (settlesLine_planes_high hrole))
      (List.mem_append_left _ (List.mem_append_left _ (drive_mem_table hrow true)))
  · exact hlevel ((beginOps_eq s).trans (List.append_assoc ..))
      ((settlesLine_table _ l false).append (settlesLine_planes_low hlatch))
      (List.mem_append_left _ (drive_mem_table hcol false))
  · exact hlevel (beginOps_eq s) (settlesLine_planes_low hlatch) (driveLow_mem_planes hrole)
  · exact hlevel (beginOps_eq s) (settlesLine_planes_high hrole) (driveHigh_mem_planes hmem)

end Sys2Proof.Safety
end

section
/-! RESET (70_reset_and_hazards.md R236). -/

namespace Sys2Proof.Machine

/-- The state after power-on and the state after RESET differ only in the fields that are no state elements of LMX
(log 7). -/
theorem eq_reset_or_resetStep {s u : State} (h : u = resetStep s ∨ u = State.reset) :
    ∃ (words : List CommandWord) (turns : List Agent) (r : Round) (d : Draws) (p : Params),
      u = { State.reset with hostQueue := words, schedule := turns, round := r, draws := d, params := p } := by
  rcases h with rfl | rfl
  · exact ⟨s.hostQueue, s.schedule, s.round, s.draws, s.params, rfl⟩
  · exact ⟨[], [], ⟨Config.gapDraw 0, .tick⟩, ⟨0, 0, 0, 0⟩, Config.params, rfl⟩

/-- Settles O10: RESET is always enabled, and every state element, each line included, has its value by the definition
of the reset state; the four triples and the four periods are taken one by one. -/
theorem resetSetsEveryElement : Obligations.ResetSetsEveryElement := by
  intro s
  refine ⟨rfl, resetStep s, rfl, fun u hu => ?_⟩
  obtain ⟨words, turns, r, d, p, rfl⟩ := eq_reset_or_resetStep hu
  have htriples {c : Nat} (hc : c < 4) : State.reset.srPins.get? c = some ⟨0xFF, 0xFF, 0xFF⟩ := by
    interval_cases c <;> rfl
  have hperiods {c : Nat} (hc : c < 4) : State.reset.ptable.get? c = some 0 := by
    interval_cases c <;> rfl
  exact ⟨rfl, rfl, rfl, rfl, rfl, rfl, rfl, fun _ => htriples, rfl, fun _ => hperiods, rfl, rfl, rfl, rfl, rfl, rfl, rfl,
    rfl, rfl, rfl, rfl, rfl, rfl, fun _ => rfl, rfl, rfl⟩

end Sys2Proof.Machine
end

section
/-! The last statements about words and lines: words of 95_test_vectors.md, and a drive of an UNCONFIGURED line
(40_gpio_shiftreg.md R115). -/

namespace Sys2Proof.Safety

open Sys2Proof.Machine

/-- Settles O3: the decoder evaluates each of the fifteen words to its row of the vectors. -/
theorem specWordsDecode : Obligations.SpecWordsDecode :=
  ⟨rfl, rfl, rfl, rfl, rfl, rfl, rfl, rfl, rfl, rfl, rfl, rfl, rfl, rfl, rfl⟩

/-- A drive of an UNCONFIGURED line, said once for both levels. -/
theorem gpioDrive_unconfigured {l : LineId} {s : State} (v : Level) (e : EventWord) (hl : l ≠ noneLine)
    (hm : (lineAt s l).mode = .unconfigured) : gpioDrive l v e s = .error (.driveUnconfigured l) := by
  simp [gpioDrive, hl, hm]

/-- Settles O57: the two levels of one drive. -/
theorem driveOfUnconfiguredLineFaults : Obligations.DriveOfUnconfiguredLineFaults := fun _ _ hl hm =>
  ⟨congrArg outcomeOf (gpioDrive_unconfigured .low _ hl hm),
    congrArg outcomeOf (gpioDrive_unconfigured .high _ hl hm)⟩

end Sys2Proof.Safety
end

section
/-! The external shift register that sees an SR_LOAD (40_gpio_shiftreg.md R117, R118, R121): the latch's two events, one
bit's three, and the bits in order. -/

namespace Sys2Proof.Safety

open Sys2Proof.Machine

section

variable {t : SrTriple} (q : ShiftRegister) (hdl : t.data ≠ t.latch) (hcl : t.clock ≠ t.latch)
include hcl

/-- The latch's rise copies the stages to the outputs. -/
theorem outputs_see_driveHigh_latch (hlow : q.latchLevel = false) :
    (q.see t (.driveHigh t.latch)).outputs = q.stages := by
  simp [ShiftRegister.see, hcl.symm, hlow]

include hdl

/-- The latch's fall is only noted. -/
theorem see_driveLow_latch : q.see t (.driveLow t.latch) = { q with latchLevel := false } := by
  simp [ShiftRegister.see, hdl.symm, hcl.symm]

/-- One bit of an SR_LOAD: the data level is set, the clock's rise shifts it in, the clock falls. -/
theorem foldl_see_bit (b : Bool) (hdc : t.data ≠ t.clock) (hclock : q.clockLevel = false) :
    [drive t.data b, .driveHigh t.clock, .driveLow t.clock].foldl (ShiftRegister.see t) q =
      { q with stages := b :: q.stages.dropLast, dataLevel := b } := by
  cases b <;> simp [ShiftRegister.see, drive, hdl, hcl, hdc, hdc.symm, hclock]

/-- Bits shifted in one by one push out as many stages furthest from the input, and leave the outputs and the latch
alone. -/
theorem foldl_see_bits (hdc : t.data ≠ t.clock) (hclock : q.clockLevel = false) {bits kept pushed : List Bool}
    (hstages : q.stages = kept ++ pushed) (hlen : pushed.length = bits.length) :
    ∃ d, (bits.flatMap fun b => [drive t.data b, .driveHigh t.clock, .driveLow t.clock]).foldl (ShiftRegister.see t) q =
      { q with stages := bits.reverse ++ kept, dataLevel := d } := by
  induction bits generalizing q kept pushed with
  | nil =>
    obtain rfl := List.length_eq_zero_iff.mp hlen
    rw [List.append_nil] at hstages
    exact ⟨q.dataLevel, by simp [← hstages]⟩
  | cons b bits ih =>
    have hpushed : pushed ≠ [] := List.ne_nil_of_length_eq_add_one hlen
    obtain ⟨d, hd⟩ := ih { q with stages := b :: q.stages.dropLast, dataLevel := b } hclock
      (kept := b :: kept) (pushed := pushed.dropLast) (by simp [hstages, List.dropLast_append_of_ne_nil hpushed])
      (by simp [hlen])
    refine ⟨d, ?_⟩
    rw [List.flatMap_cons, List.foldl_append, foldl_see_bit q hdl hcl b hdc hclock, hd]
    simp

end

/-- Settles O60: with as many stages as bits every old stage is pushed out, the first bit furthest; the outputs take the
stages at the latch's rise, which is the last event. -/
theorem shiftRegisterPresentsBits : Obligations.ShiftRegisterPresentsBits := by
  intro o t bits q hdc hdl hcl hclock hstages
  have hlen : q.stages.length = (if o = .asc then bits else bits.reverse).length := by split <;> simp [hstages]
  obtain ⟨d, hd⟩ := foldl_see_bits { q with latchLevel := false } hdl hcl hdc hclock (kept := [])
    (pushed := q.stages) rfl hlen
  rw [srLoadOps_eq, List.dropLast_concat, List.foldl_concat, List.singleton_append, List.foldl_cons,
    see_driveLow_latch q hdl hcl, hd]
  refine ⟨?_, rfl⟩
  rw [outputs_see_driveHigh_latch _ hcl rfl, List.append_nil]
  split <;> simp

end Sys2Proof.Safety
end
